-- ==== Sys2Proof/Word.lean ====
section
/-! DEFINITION. The word types of MBRTU (00_scope R10: bytes and unsigned integers of a stated width). -/

namespace Sys2Proof

/-- One byte (R10): one character of the line, one cell of a buffer. -/
abbrev Byte := BitVec 8

/-- A 16-bit value: the command word, `CRC`, `START`, `COUNT`. -/
abbrev Word16 := BitVec 16

/-- A value at the host port. The widest registers (`BAUD`, `TIMEOUT`) have 32 bits; the spec leaves the port's
width open (20_memory R47), log 1. -/
abbrev Word32 := BitVec 32

/-- A host register number, 0 to 15 (10_state R13, R35: there is none above 15). -/
abbrev RegNum := BitVec 4

end Sys2Proof
end

