-- ==== Sys2Proof/Syntax.lean ====
section
/-! DEFINITION. The instructions: one constructor per row of spec/opcode_table.json. -/

namespace Sys2Proof

/-- The operations of MBRTU, in the table's order: ten commands written to `CMD` (30_encoding R83), six
pseudo-operations of the host's program notation (R86, R87, R186), three formats of the line (R67, R70, R79). -/
inductive Instr where
  /-- CRCINIT, R96. -/
  | crcinit
  /-- CRCBYTE b, R97. -/
  | crcbyte (b : Byte)
  /-- BUILD, R102. -/
  | build
  /-- RXCLR, R107. -/
  | rxclr
  /-- RXPUSH b, R108. -/
  | rxpush (b : Byte)
  /-- PARSE, R110. -/
  | parse
  /-- OPEN, R123. -/
  | openSession
  /-- CLOSE, R125. -/
  | closeSession
  /-- XFER, R127. -/
  | xfer
  /-- CLRERR, R130. -/
  | clrerr
  /-- CRC16 b0 ... bn-1, R98. -/
  | crc16 (bytes : List Byte)
  /-- REQ s, f, a, c, R106: the operands are the values written at the port. -/
  | req (slave func start count : Word32)
  /-- PARSEBYTES b0 ... bn-1, R119. -/
  | parsebytes (bytes : List Byte)
  /-- TRANSACT s, f, a, c, R87. -/
  | transact (slave func start count : Word32)
  /-- POLL s, f, a, c, R, R186: `limit` is the retry limit. -/
  | poll (slave func start count : Word32) (limit : Nat)
  /-- WAIT, R86. -/
  | wait
  /-- RTU_REQUEST, R67 and R69: the eight bytes of a request, its function code 0x03 fixed by the row. -/
  | rtuRequest (slave startHi startLo countHi countLo crcLo crcHi : Byte)
  /-- RTU_RESPONSE, R70: function code 0x03 fixed by the row, the byte count is the number of data bytes. -/
  | rtuResponse (slave : Byte) (data : List Byte) (crcLo crcHi : Byte)
  /-- UART_CHAR, R79: one character, its start bit 0 and stop bit 1 fixed by the row. -/
  | uartChar (data : Byte)
  deriving DecidableEq, Repr, Inhabited

/-- The rows of format `CMD`. -/
def Instr.isCommand : Instr → Bool
  | .crcinit | .crcbyte _ | .build | .rxclr | .rxpush _ | .parse => true
  | .openSession | .closeSession | .xfer | .clrerr => true
  | .crc16 _ | .req _ _ _ _ | .parsebytes _ | .transact _ _ _ _ | .poll _ _ _ _ _ | .wait => false
  | .rtuRequest _ _ _ _ _ _ _ | .rtuResponse _ _ _ _ | .uartChar _ => false

/-- The rows of the line's formats: what the host never touches (20_memory R46). -/
def Instr.isWire : Instr → Bool
  | .rtuRequest _ _ _ _ _ _ _ | .rtuResponse _ _ _ _ | .uartChar _ => true
  | .crcinit | .crcbyte _ | .build | .rxclr | .rxpush _ | .parse => false
  | .openSession | .closeSession | .xfer | .clrerr => false
  | .crc16 _ | .req _ _ _ _ | .parsebytes _ | .transact _ _ _ _ | .poll _ _ _ _ _ | .wait => false

end Sys2Proof
end

