-- ==== Sys2Proof/WellFormed.lean ====
section
/-! DEFINITION. Which instructions are well formed: the bounds the spec puts on operands. -/

namespace Sys2Proof

/-- PARSEBYTES takes at most 256 bytes (41_frame_codec R119); a response frame has at most 256 bytes, so at most
251 data bytes (30_encoding R75, the table's width of RTU_RESPONSE). Every other operand is free. -/
def Instr.wellFormed : Instr → Bool
  | .parsebytes bytes => decide (bytes.length ≤ 256)
  | .rtuResponse _ data _ _ => decide (data.length ≤ 251)
  | .crcinit | .crcbyte _ | .build | .rxclr | .rxpush _ | .parse => true
  | .openSession | .closeSession | .xfer | .clrerr => true
  | .crc16 _ | .req _ _ _ _ | .transact _ _ _ _ | .poll _ _ _ _ _ | .wait => true
  | .rtuRequest _ _ _ _ _ _ _ | .uartChar _ => true

end Sys2Proof
end

