-- ==== Sys2Proof/Decode.lean ====
section
/-! DEFINITION. The decoder and the encoder: command words (30_encoding R82 to R85), the frames of the line (R67 to R75)
and the serial character (R78, R79); the byte helpers they share. -/

namespace Sys2Proof

/-- Bits 15 to 8 (R10). -/
def hiByte (w : Word16) : Byte := w.extractLsb' 8 8

/-- Bits 7 to 0 (R10). -/
def loByte (w : Word16) : Byte := w.extractLsb' 0 8

/-- `{hi, lo}` (R10: the first operand in the high bits). -/
def pair (hi lo : Byte) : Word16 := hi ++ lo

/-- The two frames of the line, told apart by their direction (R67: request, R70: response). -/
inductive FrameKind where
  | request
  | response
  deriving DecidableEq, Repr, Inhabited

/-- What a decoder can be given: a command word, the bytes of a frame in wire order, or the ten line levels of a
character in time order with the first as bit 9 (the table's UART_CHAR row). -/
inductive Code where
  | cmd (word : Word16)
  | frame (kind : FrameKind) (bytes : List Byte)
  | char (levels : BitVec 10)
  deriving DecidableEq, Repr, Inhabited

/-- Why a code is rejected. -/
inductive DecodeError where
  /-- R85: operation codes 0x00 and 0x0B to 0xFF are reserved. -/
  | reservedOp (op : Byte)
  /-- R67: a request is exactly 8 bytes. -/
  | requestLength
  /-- R69: the request row's function code is 0x03. -/
  | requestFunction
  /-- R75: a frame has at least 5 bytes. -/
  | responseTooShort
  /-- R75: a frame has at most 256 bytes. -/
  | responseTooLong
  /-- R76: only function code 0x03 has a response layout. -/
  | responseFunction
  /-- R70: `byteCount` is the number of data bytes. -/
  | responseCount
  /-- R79: a character begins with a start bit of 0. -/
  | noStartBit
  /-- R81: the bit where the stop bit should be is 0. -/
  | badStopBit
  deriving DecidableEq, Repr

/-- R83: the operation of a command word; R84: `arg` is read by CRCBYTE and RXPUSH alone; R85: the rest is reserved. -/
def decodeCmd (w : Word16) : Except DecodeError Instr :=
  match (loByte w).toNat with
  | 0x01 => .ok .crcinit
  | 0x02 => .ok (.crcbyte (hiByte w))
  | 0x03 => .ok .build
  | 0x04 => .ok .rxclr
  | 0x05 => .ok (.rxpush (hiByte w))
  | 0x06 => .ok .parse
  | 0x07 => .ok .openSession
  | 0x08 => .ok .closeSession
  | 0x09 => .ok .xfer
  | 0x0A => .ok .clrerr
  | _ => .error (.reservedOp (loByte w))

/-- R67, R69: the eight bytes of a request. -/
def decodeRequest : List Byte → Except DecodeError Instr
  | [a, f, h, l, hh, ll, c, cc] =>
    if f = 3#8 then .ok (.rtuRequest a h l hh ll c cc) else .error .requestFunction
  | _ => .error .requestLength

/-- R70, R75: the bytes of a response. -/
def decodeResponse : List Byte → Except DecodeError Instr
  | a :: f :: n :: rest =>
    if rest.length < 2 then .error .responseTooShort
    else if 253 < rest.length then .error .responseTooLong
    else if f ≠ 3#8 then .error .responseFunction
    else if rest.length ≠ n.toNat + 2 then .error .responseCount
    else .ok (.rtuResponse a (rest.take n.toNat) (rest.getD n.toNat 0#8) (rest.getD (n.toNat + 1) 0#8))
  | _ => .error .responseTooShort

/-- The eight data bits of a character: `d0` is the second level in time, `d7` the ninth (R79). -/
def charData (levels : BitVec 10) : Byte :=
  BitVec.ofBool (levels.getLsbD 1) ++ BitVec.ofBool (levels.getLsbD 2) ++ BitVec.ofBool (levels.getLsbD 3) ++
  BitVec.ofBool (levels.getLsbD 4) ++ BitVec.ofBool (levels.getLsbD 5) ++ BitVec.ofBool (levels.getLsbD 6) ++
  BitVec.ofBool (levels.getLsbD 7) ++ BitVec.ofBool (levels.getLsbD 8)

/-- R79: start bit 0, data bits, stop bit 1. -/
def decodeChar (levels : BitVec 10) : Except DecodeError Instr :=
  if levels.getLsbD 9 then .error .noStartBit
  else if levels.getLsbD 0 then .ok (.uartChar (charData levels))
  else .error .badStopBit

/-- The decoder: total, rejecting by name. -/
def decode : Code → Except DecodeError Instr
  | .cmd w => decodeCmd w
  | .frame .request bytes => decodeRequest bytes
  | .frame .response bytes => decodeResponse bytes
  | .char levels => decodeChar levels

/-- R79: the ten levels of the character that carries `d`, in time order from bit 9 down to bit 0. -/
def encodeChar (d : Byte) : BitVec 10 :=
  0#1 ++ BitVec.ofBool (d.getLsbD 0) ++ BitVec.ofBool (d.getLsbD 1) ++ BitVec.ofBool (d.getLsbD 2) ++
  BitVec.ofBool (d.getLsbD 3) ++ BitVec.ofBool (d.getLsbD 4) ++ BitVec.ofBool (d.getLsbD 5) ++
  BitVec.ofBool (d.getLsbD 6) ++ BitVec.ofBool (d.getLsbD 7) ++ 1#1

/-- R82: `{arg, op}`. -/
def encodeCmd (op arg : Byte) : Word16 := pair arg op

/-- The bytes of a request frame in wire order (R67). -/
def requestBytes (slave startHi startLo countHi countLo crcLo crcHi : Byte) : List Byte :=
  [slave, 3#8, startHi, startLo, countHi, countLo, crcLo, crcHi]

/-- The bytes of a response frame in wire order (R70). -/
def responseBytes (slave : Byte) (data : List Byte) (crcLo crcHi : Byte) : List Byte :=
  slave :: 3#8 :: BitVec.ofNat 8 data.length :: (data ++ [crcLo, crcHi])

/-- The encoder. An operand byte that is ignored is written 0 (R86); a pseudo-operation has no bits (R92). -/
def encode : Instr → Option Code
  | .crcinit => some (.cmd (encodeCmd 0x01#8 0#8))
  | .crcbyte b => some (.cmd (encodeCmd 0x02#8 b))
  | .build => some (.cmd (encodeCmd 0x03#8 0#8))
  | .rxclr => some (.cmd (encodeCmd 0x04#8 0#8))
  | .rxpush b => some (.cmd (encodeCmd 0x05#8 b))
  | .parse => some (.cmd (encodeCmd 0x06#8 0#8))
  | .openSession => some (.cmd (encodeCmd 0x07#8 0#8))
  | .closeSession => some (.cmd (encodeCmd 0x08#8 0#8))
  | .xfer => some (.cmd (encodeCmd 0x09#8 0#8))
  | .clrerr => some (.cmd (encodeCmd 0x0A#8 0#8))
  | .rtuRequest a h l hh ll c cc => some (.frame .request (requestBytes a h l hh ll c cc))
  | .rtuResponse a data c cc => some (.frame .response (responseBytes a data c cc))
  | .uartChar d => some (.char (encodeChar d))
  | .crc16 _ | .req _ _ _ _ | .parsebytes _ | .transact _ _ _ _ | .poll _ _ _ _ _ | .wait => none

/-- The eight bytes of a 64-bit number, the most significant first (the table's RTU_REQUEST row). -/
def bytesOf64 (w : Nat) : List Byte :=
  [BitVec.ofNat 8 (w / 2 ^ 56), BitVec.ofNat 8 (w / 2 ^ 48), BitVec.ofNat 8 (w / 2 ^ 40), BitVec.ofNat 8 (w / 2 ^ 32),
   BitVec.ofNat 8 (w / 2 ^ 24), BitVec.ofNat 8 (w / 2 ^ 16), BitVec.ofNat 8 (w / 2 ^ 8), BitVec.ofNat 8 w]

/-- Byte `k` of a response numbered in 16-bit words `{byte 2j, byte 2j+1}`, word 0 in the lowest bits (the table's
RTU_RESPONSE row matches over the word `{byte 0, byte 1}`). -/
def responseByteAt (w k : Nat) : Byte :=
  BitVec.ofNat 8 (w / 2 ^ (if k % 2 = 0 then 8 * k + 8 else 8 * k - 8))

/-- Two whole bytes of table bits: a command word where its operation has a row; else the ten levels of a character, where
bit 9 and the bits above are 0 and bit 0 is 1; else a command word of a reserved operation (log 18). -/
def codeOfTwoBytes (w : Nat) : Code :=
  match decodeCmd (BitVec.ofNat 16 w) with
  | .ok _ => .cmd (BitVec.ofNat 16 w)
  | .error _ => if w < 2 ^ 9 ∧ w % 2 = 1 then .char (BitVec.ofNat 10 w) else .cmd (BitVec.ofNat 16 w)

/-- The code of `nbits` table bits `w`, by the table's widths: 16 a command word (or a character in whole bytes), 10 a
character, 64 a request, else a response, whose length its own byte 2 gives (log 18). -/
def codeOfTableWord (nbits w : Nat) : Code :=
  if nbits = 16 then codeOfTwoBytes w
  else if nbits = 10 then .char (BitVec.ofNat 10 w)
  else if nbits = 64 then .frame .request (bytesOf64 w)
  else .frame .response ((List.range (5 + (responseByteAt w 2).toNat)).map (responseByteAt w))

/-- The instruction the decoder reads from the table bits `w`, or none where it rejects them. -/
def decodeTableWord (nbits w : Nat) : Option Instr :=
  match decode (codeOfTableWord nbits w) with
  | .ok i => some i
  | .error _ => none

end Sys2Proof
end

