-- ==== Sys2Proof/Machine/HostTypes.lean ====
section
/-! DEFINITION. The data of the host's software (43_host_software): decoded values and their scale, what a polled value is,
alarms, scheduled items, the parameters of the host and its worker. All of it is outside the block (00_scope R4). -/

namespace Sys2Proof.Machine

/-! ### Values -/

/-- The types of R158. -/
inductive ValueType where
  | uint16
  | int16
  | uint32
  | int32
  | asciiString (regCount : Nat)
  deriving DecidableEq, Repr, Inhabited

/-- How many registers a value takes (R152 to R156). -/
def registersOf : ValueType → Nat
  | .uint16 | .int16 => 1
  | .uint32 | .int32 => 2
  | .asciiString n => n

/-- A decoded value (R158); a number is kept raw, the scale belongs to the catalog entry (R157, 90_conflicts C3). -/
inductive DecodedValue where
  | uint16 (raw : Nat)
  | int16 (raw : Int)
  | uint32 (raw : Nat)
  | int32 (raw : Int)
  | asciiString (chars : List Byte)
  deriving DecidableEq, Repr, Inhabited

/-- Why a payload does not decode at a type: only insufficient length (R151). The source's `DecodeError` (R158). -/
inductive PayloadError where
  | insufficientLength
  deriving DecidableEq, Repr, Inhabited

/-- The scale of a catalog entry (R157): an unscaled integer, or the raw integer divided by ten. -/
inductive Scale where
  | unit
  | tenth
  deriving DecidableEq, Repr, Inhabited

/-! ### Alarms -/

/-- The alarms of a module (R167, 90_conflicts C8): the nine the source names when its two pairs count as two, and the four
that bring the number to its bound of 13, which it does not name. -/
inductive AlarmName where
  | overvoltage
  | overcurrent
  | overdischarge
  | reverseConnection
  | overTemperature
  | underTemperature
  | communicationFailure
  | chargeProtection
  | dischargeProtection
  | unnamed (index : Fin 4)
  deriving DecidableEq, Repr, Inhabited

/-- An alarm of the catalog: one of a module (R167), the lithium battery abnormal code (R168), battery missing (R162). -/
inductive AlarmId where
  | ofModule (name : AlarmName)
  | lithiumAbnormal
  | batteryMissing
  deriving DecidableEq, Repr, Inhabited

/-- Where an alarm sits: whether an "alarm bit" is a register or a bit of one is not in the source (R167). -/
inductive AlarmPlace where
  | register
  | bit (index : Fin 16)
  deriving DecidableEq, Repr, Inhabited

/-- What an alarm's raw value stands for (R168, R169). A nonzero value beyond the named ones is a fault whose name the
source does not give (U8). -/
inductive AlarmSeverity where
  | normal
  | fault
  | protection
  | commFail
  | unnamedFault (rawValue : Nat)
  deriving DecidableEq, Repr, Inhabited

/-- The enumerations an entry's severity is derived by (R169): a boolean, or the code of R168. -/
inductive SeverityKind where
  | boolean
  | faultProtectionComm
  deriving DecidableEq, Repr, Inhabited

/-- `AlarmEntry` (R169). Its severity is derived from the raw value by the entry's enumeration (`severityOf`) and not
stored, so that the two cannot disagree. -/
structure AlarmEntry where
  name : AlarmId
  address : Nat
  rawValue : Nat
  deriving DecidableEq, Repr

/-! ### What is polled -/

/-- The key of a value (R184: an address or a family key): the entries of R162 to R168, a bank entry by number (R161), or a
register of a request that names no entry. -/
inductive FieldKey where
  | year
  | month
  | day
  | hour
  | minute
  | second
  | totalVoltage
  | current
  | soc
  | barcode
  | cellTemperature
  | cellVoltage
  | vendor
  | model
  | version
  | identityText1
  | identityText2
  | batteryTemperature
  | alarm (name : AlarmId) (place : AlarmPlace)
  | bank (entry : Nat)
  | register
  deriving DecidableEq, Repr, Inhabited

/-- One value within a request or a family: its key, its first register counted from the start, its type and scale. -/
structure Field where
  key : FieldKey
  offset : Nat
  type : ValueType
  scale : Scale
  deriving DecidableEq, Repr

/-- What the answer to a request is decoded as: each register a `uint16`, or the values of the catalog. -/
inductive Shape where
  | registers
  | fields (fields : List Field)
  deriving DecidableEq, Repr, Inhabited

/-- A value of a finished transaction (R184), with the scale that belongs to it (R157). -/
structure Reading where
  key : FieldKey
  address : Nat
  scale : Scale
  value : Except PayloadError DecodedValue
  deriving DecidableEq, Repr

/-- One scheduled item (R173): a request of `count` registers. Its address for module index `m` (from 0) is
`start + m × moduleStride` (R160); the stride is 0 where the item does not follow the selected module. -/
structure PollItem where
  start : Nat
  moduleStride : Nat
  count : Nat
  fields : List Field
  deriving DecidableEq, Repr

/-- The schedule (R173): the items of each part, in the fixed order of the parts. Which items each part holds is not in
the source (91_not_in_source N13). -/
structure Schedule where
  time : List PollItem
  battery : List PollItem
  cells : List PollItem
  alarms : List PollItem
  deriving DecidableEq, Repr

/-- The parameters of the host (R178); the selected module index is `Worker.selected`. Delays are in milliseconds. -/
structure HostParams where
  portName : List Char
  baud : Word32
  slave : Word32
  readTimeout : Word32
  stopTimeout : Word32
  retryLimit : Nat
  backoff : Nat
  interCycle : Nat
  deriving DecidableEq, Repr

/-- The worker that owns the host port (R183). -/
structure Worker where
  params : HostParams
  schedule : Schedule
  /-- The selected module, its index less one (R182, R161: 1 to 32), swapped from outside. -/
  selected : Fin 32
  /-- A stop has been requested (R181) and not yet been observed. -/
  stopping : Bool
  /-- The alarms read since the sweep began (R184). -/
  alarms : List AlarmEntry
  deriving DecidableEq, Repr

end Sys2Proof.Machine
end

