-- ==== Sys2Proof/Machine/HostDecoder.lean ====
section
/-! DEFINITION. The host's typed register decoder and the alarms (43_host_software R151 to R159, R168, R169, R184): functions
of a validated payload, outside the block. -/

namespace Sys2Proof.Machine

/-! ### The decoder -/

/-- The 16-bit word at the start of a payload, big-endian (R152, 20_memory R54). -/
def payloadWord : List Byte → Except PayloadError Word16
  | hi :: lo :: _ => .ok (pair hi lo)
  | _ => .error .insufficientLength

/-- `uint16` (R152). -/
def decodeUint16 (p : List Byte) : Except PayloadError Nat := (payloadWord p).map BitVec.toNat

/-- `int16` (R153): the `uint16` pattern as two's complement. -/
def decodeInt16 (p : List Byte) : Except PayloadError Int := (payloadWord p).map BitVec.toInt

/-- The 32-bit pattern of a payload: two big-endian words, hi-word then lo-word (R154). -/
def payloadDouble (p : List Byte) : Except PayloadError Word32 :=
  match payloadWord p, payloadWord (p.drop 2) with
  | .ok hi, .ok lo => .ok (hi ++ lo)
  | .error e, _ => .error e
  | _, .error e => .error e

/-- `uint32` (R154). -/
def decodeUint32 (p : List Byte) : Except PayloadError Nat := (payloadDouble p).map BitVec.toNat

/-- `int32` (R155): the `uint32` pattern as two's complement. -/
def decodeInt32 (p : List Byte) : Except PayloadError Int := (payloadDouble p).map BitVec.toInt

/-- The bytes trimmed from the end of a string (R156, D31): NUL and the whitespace of D31. -/
def isTrimmed (b : Byte) : Bool :=
  decide (b = 0x00#8) || decide (b = 0x20#8) || (decide (0x09 ≤ b.toNat) && decide (b.toNat ≤ 0x0D))

/-- Trimming, from the end only (R156). -/
def trimEnd (chars : List Byte) : List Byte := (chars.reverse.dropWhile isTrimmed).reverse

/-- `asciiString(regCount)` (R156): character `j` is payload byte `j`. -/
def decodeAscii (regCount : Nat) (p : List Byte) : Except PayloadError (List Byte) :=
  if p.length < 2 * regCount then .error .insufficientLength else .ok (trimEnd (p.take (2 * regCount)))

/-- Decode a payload at a type: a value or the decode error (R151, R158). -/
def decodeValue (t : ValueType) (p : List Byte) : Except PayloadError DecodedValue :=
  match t with
  | .uint16 => (decodeUint16 p).map .uint16
  | .int16 => (decodeInt16 p).map .int16
  | .uint32 => (decodeUint32 p).map .uint32
  | .int32 => (decodeInt32 p).map .int32
  | .asciiString n => (decodeAscii n p).map .asciiString

/-- Register `k` of a request within its payload (R151, 30_encoding R74): the payload from byte `2k` on. -/
def payloadFrom (k : Nat) (p : List Byte) : List Byte := p.drop (2 * k)

/-- The exact rational `raw / 10` of a scaled quantity (R157, D32). -/
def scaledByTen (raw : Int) : Rat := (raw : Rat) / 10

/-- The quantity a raw integer stands for at a scale (R157). -/
def scaled (scale : Scale) (raw : Int) : Rat :=
  match scale with
  | .unit => (raw : Rat)
  | .tenth => scaledByTen raw

/-- The raw integer of a decoded value; a string is none. -/
def rawNumber : DecodedValue → Option Int
  | .uint16 n | .uint32 n => some (n : Int)
  | .int16 n | .int32 n => some n
  | .asciiString _ => none

/-- The quantity a reading stands for, where it holds a number. -/
def quantity (r : Reading) : Option Rat :=
  match r.value with
  | .ok v => (rawNumber v).map (scaled r.scale)
  | .error _ => none

/-! ### The values of a transaction -/

/-- One value of an answer to a request that starts at register `start`. -/
def readingOf (start : Nat) (payload : List Byte) (f : Field) : Reading :=
  { key := f.key, address := start + f.offset, scale := f.scale
    value := decodeValue f.type (payloadFrom f.offset payload) }

/-- The values an answer is decoded to (R151, R186): those of the catalog, or each register as a `uint16` where the request
names no entry (log 11). -/
def readings (start : Nat) (shape : Shape) (payload : List Byte) : List Reading :=
  match shape with
  | .fields fs => fs.map (readingOf start payload)
  | .registers =>
    (List.range (payload.length / 2)).map fun k => readingOf start payload ⟨.register, k, .uint16, .unit⟩

/-! ### Alarms -/

/-- The code of the "lithium battery abnormal" register (R168). -/
def lithiumSeverity (rawValue : Nat) : AlarmSeverity :=
  match rawValue with
  | 0 => .normal
  | 1 => .fault
  | 2 => .protection
  | 3 => .commFail
  | n => .unnamedFault n

/-- An alarm (R169): 0 is normal, nonzero is a fault. -/
def alarmIsFault (rawValue : Nat) : Bool := decide (rawValue ≠ 0)

/-- The enumeration of an entry (R167 to R169): the alarms of a module and battery-missing are booleans, the lithium code
is that of R168. -/
def severityKind : AlarmId → SeverityKind
  | .ofModule _ | .batteryMissing => .boolean
  | .lithiumAbnormal => .faultProtectionComm

/-- The severity of a raw value by an enumeration (R169). -/
def severityBy (kind : SeverityKind) (rawValue : Nat) : AlarmSeverity :=
  match kind with
  | .boolean => if alarmIsFault rawValue then .fault else .normal
  | .faultProtectionComm => lithiumSeverity rawValue

/-- The severity of an entry, derived from its raw value (R169). -/
def severityOf (e : AlarmEntry) : AlarmSeverity := severityBy (severityKind e.name) e.rawValue

/-- The raw value of an alarm within its register. -/
def alarmRaw (place : AlarmPlace) (register : Nat) : Nat :=
  match place with
  | .register => register
  | .bit i => if register.testBit i.val then 1 else 0

/-- The alarm entry a reading holds, where it is one. -/
def alarmOf (r : Reading) : Option AlarmEntry :=
  match r.key, r.value with
  | .alarm name place, .ok (.uint16 register) =>
    some { name := name, address := r.address, rawValue := alarmRaw place register }
  | _, _ => none

/-- The aggregated event of a full alarm sweep (R184): the count of alarms that are not normal, and their entries. PRESUMED
(log 29). -/
def alarmSweep (entries : List AlarmEntry) : Nat × List AlarmEntry :=
  let raised := entries.filter fun e => alarmIsFault e.rawValue
  (raised.length, raised)

end Sys2Proof.Machine
end

