-- ==== Sys2Proof/Machine/Input.lean ====
section
/-! DEFINITION. What comes to the block from outside: the lines of the host's program (30_encoding R86) and the answers
of the environment (00_scope R7, 42_uart_transceiver R132, R133, R141, 43_host_software R181, R182). -/

namespace Sys2Proof.Machine

/-- A step of the poll engine (43_host_software R172 to R186) that is no action at the port: the host's own part. -/
inductive EngineStep where
  /-- The decision of POLL after an attempt (R186): the item's start address as written, what its answer is decoded as,
  and how many retries are left. -/
  | pollCheck (start : Word32) (shape : Shape) (left : Nat)
  /-- A delay of so many milliseconds, during which the host does nothing (R174 backoff, R179 inter-cycle sleep). -/
  | pause (ms : Nat)
  /-- A scheduled item begins (R173, R182). -/
  | item (item : PollItem)
  /-- A sweep begins (R173, R179). -/
  | nextSweep
  /-- The alarm sweep is over (R184). -/
  | alarmReport
  /-- The decision after OPEN (R172). -/
  | connectCheck
  deriving DecidableEq, Repr, Inhabited

/-- One line of the host's program. -/
inductive Line where
  /-- `WR name, value`; a write of register 0 is a command (R86, R14). -/
  | wr (reg : RegNum) (value : Word32)
  /-- `RD name` (R86). -/
  | rd (reg : RegNum)
  /-- `RDB TXBUF, i` (R86). -/
  | rdbTx (index : Nat)
  /-- `RDB RXBUF, i` (R86). -/
  | rdbRx (index : Nat)
  /-- A line written by its mnemonic (R86, R87). -/
  | op (instr : Instr)
  /-- A step of the poll engine. -/
  | engine (step : EngineStep)
  deriving DecidableEq, Repr, Inhabited

/-- One answer of the environment: who moves next and what comes in. -/
inductive Event where
  /-- The host takes its turn: one program line. -/
  | host
  /-- `ms` whole milliseconds pass and the sequencer takes its next step with `LINK_OK = 1`. -/
  | tick (ms : Nat)
  /-- The sequencer takes its next step with `LINK_OK = 0` (R133). -/
  | linkDown
  /-- Ten levels on the line, in time order from bit 9 down (R79, R81). -/
  | char (levels : BitVec 10)
  /-- The bytes of a frame on the line, one character after another (R67, R70). -/
  | frame (kind : FrameKind) (bytes : List Byte)
  /-- The platform asserts reset (70_reset_and_hazards R213). -/
  | reset
  /-- The selected module index is swapped from outside the worker (43_host_software R182); `index` counts from 0. -/
  | selectModule (index : Fin 32)
  /-- A stop is requested (43_host_software R181). -/
  | stopRequest
  deriving DecidableEq, Repr, Inhabited

end Sys2Proof.Machine
end

