-- ==== Sys2Proof/Config.lean ====
section
/-! DEFINITION. The parameters of 00_scope R6 that this hardware fixes, and the free values: constants without a body, of
which nothing can be proved. -/

namespace Sys2Proof.Config

open Sys2Proof.Machine

/-- `CRC_POLY`, R6. -/
def crcPoly : Word16 := 0xA001#16

/-- `CRC_INIT`, R6. -/
def crcInit : Word16 := 0xFFFF#16

/-- `MAX_COUNT`, R6: the largest legal register count. -/
def maxCount : Nat := 125

/-- `TX_CAP`, R6. -/
def txCap : Nat := 8

/-- `RX_CAP`, R6. -/
def rxCap : Nat := 256

/-- The free environment answer number `n`, used while the block is busy and the script `env` is empty
(00_scope R7: an oracle whose answers are unconstrained). Log 2. -/
opaque envAnswer : Nat → Event

/-- The byte a host read of a buffer at or beyond its valid length returns, the `n`-th such draw (20_memory R51). Log 6. -/
opaque staleByte : Nat → Byte

/-- What `CRC` reads as during `P_CHECK`, the `n`-th draw (20_memory R57, U15). Log 8. -/
opaque racingCrc : Nat → Word16

/-- The content of byte `i` of `TXBUF` that nothing has written (10_state R41). Log 7. -/
opaque powerOnTx : Nat → Byte

/-- The content of byte `i` of `RXBUF` that nothing has written (10_state R42). Log 7. -/
opaque powerOnRx : Nat → Byte

/-- The moment the host stamps a successful transaction with, the `n`-th such draw (43_host_software R176; the spec gives
the host no clock). Log 27. -/
opaque timestamp : Nat → Nat

end Sys2Proof.Config
end

