-- ==== Sys2Proof/Machine/State.lean ====
section
/-! DEFINITION. The state of the machine (10_state R13 to R43, the host's own state of 43_host_software R176 to R184, and
the model's own fields), what stops it, and the state after reset (R45). -/

namespace Sys2Proof.Machine

/-- `STATUS.SESS` (R16). -/
inductive Session where
  | disconnected
  | connecting
  | idle
  | awaitingResponse
  deriving DecidableEq, Repr, Inhabited

/-- `PHASE` (R37): the step the sequencer takes next. -/
inductive Phase where
  | idle
  | opening
  | tx
  | rx
  | check
  deriving DecidableEq, Repr, Inhabited

/-- The five error results of the block (60_exceptions R190). -/
inductive ErrorCode where
  | tooShort
  | crcMismatch
  | lengthMismatch
  | timeout
  | fatal
  deriving DecidableEq, Repr, Inhabited

/-- `RESULT` (R23, R88): `R_NONE`, `R_OK` or an error. -/
inductive ResultCode where
  | none
  | ok
  | error (code : ErrorCode)
  deriving DecidableEq, Repr, Inhabited

/-- The direction of a `Log` event (R43). -/
inductive Direction where
  | tx
  | rx
  deriving DecidableEq, Repr, Inhabited

/-- The events of the history `H` (R43, 30_encoding R90). -/
inductive HistEvent where
  | txByte (b : Byte)
  | rxByte (b : Byte)
  | timeout
  | fatal
  | log (dir : Direction) (bytes : List Byte)
  deriving DecidableEq, Repr, Inhabited

/-- What a host read returned (R86: the value is written after the arrow in a trace). -/
inductive PortRead where
  | reg (reg : RegNum) (value : Word32)
  | tx (index : Nat) (value : Byte)
  | rx (index : Nat) (value : Byte)
  deriving DecidableEq, Repr, Inhabited

/-- What the host emits to its consumer for a polled item (43_host_software R184, R186). -/
inductive HostEvent where
  /-- The values of an accepted response, decoded, with the start address written. -/
  | value (start : Word32) (readings : List Reading)
  /-- The transaction-level error of one item, with the last result code. -/
  | itemError (start : Word32) (result : ResultCode)
  | connectionLost
  /-- A failed OPEN, reported to the caller (R172, 42_uart_transceiver R123). -/
  | connectFailed
  /-- The aggregated event of a full alarm sweep (R184). -/
  | alarmSweep (count : Nat) (entries : List AlarmEntry)
  deriving DecidableEq, Repr, Inhabited

/-- A buffer as a list of (address, byte) cells, addresses strictly rising; an address not listed has a content the spec
does not give (R41, R42). -/
abbrev Memory := List Host.Cell

/-- Why the machine stops with a fault. Both are safe: the spec has no such action. -/
inductive Fault where
  /-- Raised by a buffer byte read whose index lies outside the buffer: it does not exist at the port (20_memory R51).
  Safe. -/
  | noSuchBufferByte
  /-- Raised by a host program line that names a format of the line: the host never touches the line (20_memory R46).
  Safe. -/
  | hostDrivesLine
  deriving DecidableEq, Repr

/-- Why the machine refuses. The block's own refusals (60_exceptions R196) are next states with `CMDERR` set. -/
inductive Refusal where
  /-- Raised by `exec` for an instruction that has no meaning yet. Safe. -/
  | notModelled (mnemonic : String)
  deriving DecidableEq, Repr

/-- The state. `STATUS.BUSY` and `STATUS.TXEN` are functions of `phase` (R17, R22); `CMD` stores nothing (R14). -/
structure State where
  /-- `STATUS.SESS`, R16. -/
  sess : Session
  /-- `STATUS.CMDERR`, R18. -/
  cmdErr : Bool
  /-- `STATUS.FERR`, R19. -/
  fErr : Bool
  /-- `STATUS.TMO`, R20. -/
  tmo : Bool
  /-- `STATUS.SLVOK`, R21. -/
  slvOk : Bool
  /-- `STATUS.FUNOK`, R21. -/
  funOk : Bool
  /-- `STATUS.CNTOK`, R21. -/
  cntOk : Bool
  /-- `RESULT`, R23. -/
  result : ResultCode
  /-- `CRC`, R24. -/
  crc : Word16
  /-- `SLAVE`, R25. -/
  slave : Byte
  /-- `FUNC`, R26. -/
  func : Byte
  /-- `START`, R27. -/
  start : Word16
  /-- `COUNT`, R28. -/
  count : Word16
  /-- `BAUD`, R29. -/
  baud : Word32
  /-- `TIMEOUT`, R30. -/
  timeout : Word32
  /-- `TXLEN`, R31. -/
  txLen : BitVec 4
  /-- `EXPLEN`, R32. -/
  expLen : BitVec 9
  /-- `RXLEN`, R33. -/
  rxLen : BitVec 9
  /-- `PAYLEN`, R34. -/
  payLen : Byte
  /-- `PHASE`, R37. -/
  phase : Phase
  /-- `TXIDX`, R38. -/
  txIdx : BitVec 4
  /-- `ABAUD`, R39. -/
  aBaud : Word32
  /-- The read timer, R40: stopped, or the milliseconds since the receive phase began (log 5). -/
  timer : Option Nat
  /-- `TXBUF`, R41. -/
  txBuf : Memory
  /-- `RXBUF`, R42. -/
  rxBuf : Memory
  /-- `H`, R43, the oldest event first. -/
  hist : List HistEvent
  /-- The host's retry counter, 43_host_software R176. -/
  retries : Nat
  /-- The host's last successful transaction timestamp, 43_host_software R176; none before the session's first (log 27). -/
  lastSuccess : Option Nat
  /-- The host's worker, 43_host_software R178, R181 to R184. -/
  worker : Worker
  /-- The events the host has emitted, R184, the oldest first. -/
  hostEvents : List HostEvent
  /-- The model's own: the host's program lines still to issue (log 3). -/
  prog : List Line
  /-- The model's own: the script of environment answers (log 2). -/
  env : List Event
  /-- The model's own: how many free values have been drawn (log 23). -/
  draws : Nat
  /-- The model's own: what port reads have returned, the oldest first (log 10). -/
  trace : List PortRead
  deriving DecidableEq, Repr

/-- The state after reset: R45; the host's and the model's own fields empty (log 23). -/
def State.reset : State where
  sess := .disconnected
  cmdErr := false
  fErr := false
  tmo := false
  slvOk := false
  funOk := false
  cntOk := false
  result := .none
  crc := 0xFFFF#16
  slave := 0x00#8
  func := 0x03#8
  start := 0x0000#16
  count := 0x0000#16
  baud := 0#32
  timeout := 1000#32
  txLen := 0#4
  expLen := 0#9
  rxLen := 0#9
  payLen := 0#8
  phase := .idle
  txIdx := 0#4
  aBaud := 0#32
  timer := none
  txBuf := []
  rxBuf := []
  hist := []
  retries := 0
  lastSuccess := none
  worker := {
    params := {
      portName := [], baud := 0#32, slave := 0#32, readTimeout := 1000#32, stopTimeout := 0#32, retryLimit := 0
      backoff := 0, interCycle := 0 }
    schedule := { time := [], battery := [], cells := [], alarms := [] }
    selected := 0, stopping := false, alarms := [] }
  hostEvents := []
  prog := []
  env := []
  draws := 0
  trace := []

/-- The outcome of a meaning or of a step. -/
abbrev Result := Host.Outcome State Fault Refusal

end Sys2Proof.Machine
end

