-- ==== Sys2Proof/Machine/Ops.lean ====
section
/-! DEFINITION. The named operations: buffers as memories, the derived fields of `STATUS`, refusal (60_exceptions R196),
taking an error (R198), the history (10_state R43), the traces and queues of the host. -/

namespace Sys2Proof.Machine

/-! ### Memory -/

/-- What an address that is not listed holds: nothing the spec gives (10_state R41, R42). -/
def Memory.unlisted : Option Byte := none

/-- The byte at an address. -/
def Memory.read : Memory → Nat → Option Byte
  | [], _ => Memory.unlisted
  | (k, v) :: rest, a => if k = a then some v else Memory.read rest a

/-- Write one byte, keeping the addresses strictly rising. -/
def Memory.write : Memory → Nat → Byte → Memory
  | [], a, b => [(a, b)]
  | (k, v) :: rest, a, b =>
    if a < k then (a, b) :: (k, v) :: rest
    else if a = k then (k, b) :: rest
    else (k, v) :: Memory.write rest a b

/-- Write the bytes at consecutive addresses from `a` up. -/
def Memory.writeList : Memory → Nat → List Byte → Memory
  | m, _, [] => m
  | m, a, b :: bs => Memory.writeList (m.write a b) (a + 1) bs

/-- Write one byte of a buffer of `cap` bytes; an index outside it does not exist (20_memory R51). -/
def Memory.writeBelow (cap : Nat) (m : Memory) (a : Nat) (b : Byte) : Memory :=
  if a < cap then m.write a b else m

/-- All addresses are at least `lo`, rise strictly, and lie below `cap`. -/
def Memory.wfFrom (cap : Nat) : Nat → Memory → Bool
  | _, [] => true
  | lo, (k, _) :: rest => decide (lo ≤ k) && decide (k < cap) && Memory.wfFrom cap (k + 1) rest

/-- The canonical form of a buffer of `cap` bytes: addresses strictly rising and inside it. -/
def Memory.wf (cap : Nat) (m : Memory) : Bool := Memory.wfFrom cap 0 m

/-- Byte `i` of `TXBUF` as the block reads it. -/
def State.txByte (s : State) (i : Nat) : Byte := (s.txBuf.read i).getD (Config.powerOnTx i)

/-- Byte `i` of `RXBUF` as the block reads it. -/
def State.rxByte (s : State) (i : Nat) : Byte := (s.rxBuf.read i).getD (Config.powerOnRx i)

/-- `TXBUF[0..n)` (R10). -/
def State.txBytes (s : State) (n : Nat) : List Byte := (List.range n).map s.txByte

/-- `RXBUF[0..n)` (R10). -/
def State.rxBytes (s : State) (n : Nat) : List Byte := (List.range n).map s.rxByte

/-! ### Derived fields -/

/-- `STATUS.BUSY` (R17): 1 exactly while `PHASE ≠ P_IDLE`. -/
def State.busy (s : State) : Bool := decide (s.phase ≠ .idle)

/-- `STATUS.TXEN` (R22): 1 exactly while `PHASE = P_TX`. -/
def State.txEn (s : State) : Bool := decide (s.phase = .tx)

/-- The receiver takes a byte (42_uart_transceiver R139, 20_memory R64). -/
def State.receiving (s : State) : Bool := decide (s.phase = .rx) && decide (s.rxLen.toNat < s.expLen.toNat)

/-! ### Updates -/

/-- `refuse` (60_exceptions R196): `CMDERR <- 1` and no other state changes. -/
def State.refuse (s : State) : State := { s with cmdErr := true }

/-- `emit Ev` (R11, 10_state R43). -/
def State.emit (s : State) (e : HistEvent) : State := { s with hist := s.hist ++ [e] }

/-- The value a port read returned, appended to the host's trace (R86). -/
def State.logRead (s : State) (r : PortRead) : State := { s with trace := s.trace ++ [r] }

/-- One more free value has been drawn. -/
def State.drawn (s : State) : State := { s with draws := s.draws + 1 }

/-- Lines put in front of the host's program. -/
def State.queue (s : State) (lines : List Line) : State := { s with prog := lines ++ s.prog }

/-- An event of the host (43_host_software R184). -/
def State.tell (s : State) (e : HostEvent) : State := { s with hostEvents := s.hostEvents ++ [e] }

/-- `PAYLEN` and the match flags 0: the first line of `validate()` (41_frame_codec R109), and what an error leaves of an
operation that cleared them at its start (60_exceptions R198). -/
def State.clearMatch (s : State) : State :=
  { s with payLen := 0#8, slvOk := false, funOk := false, cntOk := false }

/-- What every fatal error writes (42_uart_transceiver R135, R138, R142, 60_exceptions R198): the code, `Disconnected` and
`P_IDLE`. -/
def State.loseSession (s : State) : State := { s with result := .error .fatal, sess := .disconnected, phase := .idle }

/-- `raise E` (60_exceptions R198), the one operation by which the block takes the error of a `PARSE` or an `XFER`:
`RESULT <- code(E)`, `PAYLEN` and the match flags are 0, `PHASE <- P_IDLE`; a frame error returns `SESS` to `Idle` if the
operation was `XFER` (validating in `P_CHECK`) and leaves it if it was `PARSE`; a timeout sets `TMO` and returns to `Idle`;
a fatal error goes to `Disconnected`. A failed `OPEN` writes what 42_uart_transceiver R135 lists and no more
(`State.openFails`, log 15). The read timer stops with the receive phase (R40, log 22). There is no return from an error
(R204). -/
def State.raise (s : State) : ErrorCode → State
  | .timeout => { s.clearMatch with
      result := .error .timeout, tmo := true, sess := .idle, phase := .idle, timer := none }
  | .fatal => { s.clearMatch.loseSession with timer := none }
  | e => { s.clearMatch with
      result := .error e, phase := .idle, sess := if s.phase = .check then .idle else s.sess }

/-- The host's half of a `PollSession` as it begins (43_host_software R176): no retry, no success. -/
def State.freshSession (s : State) : State := { s with retries := 0, lastSuccess := none }

/-- A command while `BUSY = 1` is refused (20_memory R56); otherwise it does what it does. -/
def State.whenQuiescent (s : State) (effect : State) : Result :=
  if s.busy then .next s.refuse else .next effect

/-- Reset (70_reset_and_hazards R214): every field of the block at its reset value, `H` emptied, the buffers
unspecified. The host is not part of the block: its program, traces and events stay, and so do the model's own fields
(log 17). -/
def State.resetBlock (s : State) : State :=
  { State.reset with
    retries := s.retries, lastSuccess := s.lastSuccess, worker := s.worker, hostEvents := s.hostEvents, prog := s.prog
    env := s.env, draws := s.draws, trace := s.trace }

end Sys2Proof.Machine
end

