-- ==== Sys2Proof/Machine/CrcUnit.lean ====
section
/-! DEFINITION. The CRC16 unit (40_crc16): the function of R94 and R95, CRCINIT and CRCBYTE. -/

namespace Sys2Proof.Machine

/-- One of the eight rounds of R94: the test is of bit 0 before the shift, the shift is logical. -/
def crcRound (c : Word16) : Word16 :=
  if c.getLsbD 0 then (c >>> 1) ^^^ Config.crcPoly else c >>> 1

/-- `n` rounds. -/
def crcRounds : Nat → Word16 → Word16
  | 0, c => c
  | n + 1, c => crcRounds n (crcRound c)

/-- `crc_step(c, b)` (R94): the byte enters the low byte by `xor`, then exactly eight rounds. -/
def crcStep (c : Word16) (b : Byte) : Word16 := crcRounds 8 (c ^^^ b.setWidth 16)

/-- `crc_step` over the bytes in index order, from the accumulator `c`. -/
def crcFrom (c : Word16) (bytes : List Byte) : Word16 := bytes.foldl crcStep c

/-- `crc16(s)` (R95): from 0xFFFF, no final inversion, swap or reflection. -/
def crc16 (bytes : List Byte) : Word16 := crcFrom Config.crcInit bytes

/-- CRCINIT (R96): `CRC <- 0xFFFF`. -/
def execCrcinit (s : State) : Result := s.whenQuiescent { s with crc := Config.crcInit }

/-- CRCBYTE b (R97): `CRC <- crc_step(CRC, b)`. -/
def execCrcbyte (b : Byte) (s : State) : Result := s.whenQuiescent { s with crc := crcStep s.crc b }

end Sys2Proof.Machine
end

