-- ==== Sys2Proof/Machine/Flags.lean ====
section
/-! DEFINITION. The flags: the `STATUS` word (10_state R15), the clearing of a verdict (R21, R23, R34), the request-match
flags (41_frame_codec R114) and the host's test of them (R118). -/

namespace Sys2Proof.Machine

/-- The code of `STATUS.SESS` (30_encoding R89). -/
def Session.code : Session → BitVec 2
  | .disconnected => 0#2
  | .connecting => 1#2
  | .idle => 2#2
  | .awaitingResponse => 3#2

/-- The code of `RESULT` (30_encoding R88). -/
def ResultCode.code : ResultCode → BitVec 4
  | .none => 0#4
  | .ok => 1#4
  | .error .tooShort => 2#4
  | .error .crcMismatch => 3#4
  | .error .lengthMismatch => 4#4
  | .error .timeout => 5#4
  | .error .fatal => 6#4

/-- A flag of the last verdict as it reads: 0 while `BUSY = 1` (20_memory R57). The flag itself is kept (10_state R20, R21,
log 15). -/
def State.shown (s : State) (flag : Bool) : Bool := flag && !s.busy

/-- `STATUS` (R15): `[1:0] SESS`, `[2] BUSY`, `[3] CMDERR`, `[4] FERR`, `[5] TMO`, `[6] SLVOK`, `[7] FUNOK`,
`[8] CNTOK`, `[9] TXEN`, `[15:10]` read 0. -/
def State.status (s : State) : Word16 :=
  0#6 ++ BitVec.ofBool s.txEn ++ BitVec.ofBool (s.shown s.cntOk) ++ BitVec.ofBool (s.shown s.funOk) ++
  BitVec.ofBool (s.shown s.slvOk) ++ BitVec.ofBool (s.shown s.tmo) ++ BitVec.ofBool s.fErr ++
  BitVec.ofBool s.cmdErr ++ BitVec.ofBool s.busy ++ s.sess.code

/-- What every touch of the receive buffer does to the last verdict (R107, R108, R127): `RESULT <- R_NONE`,
`PAYLEN`, `TMO` and the match flags 0. -/
def State.clearVerdict (s : State) : State :=
  { s with result := .none, payLen := 0#8, tmo := false, slvOk := false, funOk := false, cntOk := false }

/-- The last lines of `validate()` (R109, R114): the validated frame against the last built request, `2 × count`
without truncation; all three stay 0 when no request was ever built. -/
def State.matchRequest (s : State) : State :=
  if s.txLen = 8#4 then
    { s with
      slvOk := decide (s.rxByte 0 = s.txByte 0)
      funOk := decide (s.rxByte 1 = s.txByte 1)
      cntOk := decide ((s.rxByte 2).toNat = 2 * (pair (s.txByte 4) (s.txByte 5)).toNat) }
  else s

/-- `accepted` (R118). -/
def State.accepted (s : State) : Bool :=
  decide (s.result = .ok) && s.slvOk && s.funOk && s.cntOk

/-- The payload of the last validated frame, `RXBUF[3 .. 3+PAYLEN)` (10_state R34). -/
def State.payload (s : State) : List Byte := (List.range s.payLen.toNat).map fun k => s.rxByte (3 + k)

end Sys2Proof.Machine
end

