-- ==== Sys2Proof/Machine/Operands.lean ====
section
/-! DEFINITION. The operand forms of the host port: register reads and writes (10_state R13 to R36, 20_memory R56, R57) and
buffer byte reads (20_memory R48 to R51). -/

namespace Sys2Proof.Machine

/-- The value a register reads as, zero-extended to the port (R36); `CMD` and the reserved registers read 0 (R14, R35), and
so does `PAYLEN` while `BUSY = 1` (20_memory R57, log 15). -/
def State.regValue (s : State) (n : RegNum) : Word32 :=
  match n.toNat with
  | 1 => s.status.setWidth 32
  | 2 => s.result.code.setWidth 32
  | 3 => s.crc.setWidth 32
  | 4 => s.slave.setWidth 32
  | 5 => s.func.setWidth 32
  | 6 => s.start.setWidth 32
  | 7 => s.count.setWidth 32
  | 8 => s.baud
  | 9 => s.timeout
  | 10 => s.txLen.setWidth 32
  | 11 => s.expLen.setWidth 32
  | 12 => s.rxLen.setWidth 32
  | 13 => if s.busy then 0#32 else s.payLen.setWidth 32
  | _ => 0#32

/-- `RD name`: no side effect on the block (R53). `CRC` is unspecified during `P_CHECK` (R57): a free value. -/
def State.readReg (s : State) (n : RegNum) : State :=
  if n = 3#4 ∧ s.phase = .check then
    (s.logRead (.reg n ((Config.racingCrc s.draws).setWidth 32))).drawn
  else s.logRead (.reg n (s.regValue n))

/-- The storage of a read-write register takes the low bits of the value (R36); a read-only or reserved register is
refused (R36, R196 c). Register 0 is no storage (R14); its writes are commands and do not come here. -/
def State.storeReg (s : State) (n : RegNum) (v : Word32) : State :=
  match n.toNat with
  | 3 => { s with crc := v.setWidth 16 }
  | 4 => { s with slave := v.setWidth 8 }
  | 5 => { s with func := v.setWidth 8 }
  | 6 => { s with start := v.setWidth 16 }
  | 7 => { s with count := v.setWidth 16 }
  | 8 => { s with baud := v }
  | 9 => { s with timeout := v }
  | _ => s.refuse

/-- `WR name, value` for a register other than `CMD`: while `BUSY = 1` only `TIMEOUT` may be written (R56). -/
def State.writeReg (s : State) (n : RegNum) (v : Word32) : State :=
  if s.busy ∧ n ≠ 9#4 then s.refuse else s.storeReg n v

/-- `RDB TXBUF, i`: the byte while `i < TXLEN` (R48), an unspecified byte up to index 7, and no such byte above (R51). -/
def State.readTxBuf (s : State) (i : Nat) : Result :=
  if Config.txCap ≤ i then .fault .noSuchBufferByte
  else if i < s.txLen.toNat then .next (s.logRead (.tx i (s.txByte i)))
  else .next (s.logRead (.tx i (Config.staleByte s.draws))).drawn

/-- `RDB RXBUF, i`: the byte while `i < RXLEN` (R49), an unspecified byte up to index 255, and no such byte above (R51). -/
def State.readRxBuf (s : State) (i : Nat) : Result :=
  if Config.rxCap ≤ i then .fault .noSuchBufferByte
  else if i < s.rxLen.toNat then .next (s.logRead (.rx i (s.rxByte i)))
  else .next (s.logRead (.rx i (Config.staleByte s.draws))).drawn

end Sys2Proof.Machine
end

