-- ==== Sys2Proof/Machine/Codec.lean ====
section
/-! DEFINITION. The frame codec (41_frame_codec): the request builder, loading bytes by hand, the response validator. -/

namespace Sys2Proof.Machine

/-- The six header bytes of a request, big-endian (R68, R103). -/
def requestHeader (slave func : Byte) (start count : Word16) : List Byte :=
  [slave, func, hiByte start, loByte start, hiByte count, loByte count]

/-- A body followed by its CRC, low byte first (R68, R72). -/
def withCrc (body : List Byte) : List Byte := body ++ [loByte (crc16 body), hiByte (crc16 body)]

/-- The request frame of R67: the source's `buildReadRequest`. -/
def requestFrame (slave func : Byte) (start count : Word16) : List Byte :=
  withCrc (requestHeader slave func start count)

/-- What a successful BUILD writes (R102): `TXBUF[0..8)`, `CRC`, `TXLEN`, `EXPLEN`. -/
def State.buildRequest (s : State) : State :=
  { s with
    txBuf := s.txBuf.writeList 0 (requestFrame s.slave s.func s.start s.count)
    crc := crc16 (requestHeader s.slave s.func s.start s.count)
    txLen := 8#4
    expLen := BitVec.ofNat 9 (5 + 2 * s.count.toNat) }

/-- BUILD (R102, R104): refused when `COUNT > 125`. -/
def execBuild (s : State) : Result :=
  s.whenQuiescent (if Config.maxCount < s.count.toNat then s.refuse else s.buildRequest)

/-- RXCLR (R107): the buffer is emptied, not erased, and the verdict cleared. -/
def execRxclr (s : State) : Result := s.whenQuiescent { s.clearVerdict with rxLen := 0#9 }

/-- One byte appended to `RXBUF` at `RXLEN` (R108, 42_uart_transceiver R139). -/
def State.appendRx (s : State) (b : Byte) : State :=
  { s with rxBuf := s.rxBuf.writeBelow Config.rxCap s.rxLen.toNat b, rxLen := s.rxLen + 1#9 }

/-- RXPUSH b (R108): refused when the buffer is full. -/
def execRxpush (b : Byte) (s : State) : Result :=
  s.whenQuiescent (if s.rxLen.toNat = Config.rxCap then s.refuse else (s.appendRx b).clearVerdict)

/-- `validate()` (R109): length below 5 first, CRC second, byte count third, the first failure is the verdict (R115). -/
def State.validate (s : State) : State :=
  let len := s.rxLen.toNat
  if len < 5 then s.clearMatch.raise .tooShort
  else
    let c := crc16 (s.rxBytes (len - 2))
    let t := { s.clearMatch with crc := c }
    if s.rxByte (len - 2) ≠ loByte c ∨ s.rxByte (len - 1) ≠ hiByte c then t.raise .crcMismatch
    else if (s.rxByte 2).toNat ≠ len - 5 then t.raise .lengthMismatch
    else State.matchRequest { t with result := .ok, payLen := s.rxByte 2 }

/-- PARSE (R110): `validate()`. -/
def execParse (s : State) : Result := s.whenQuiescent s.validate

end Sys2Proof.Machine
end

