-- ==== Sys2Proof/Machine/Transceiver.lean ====
section
/-! DEFINITION. The half-duplex transceiver (42_uart_transceiver): the acceptance of OPEN, CLOSE, XFER and CLRERR, the small
steps of the sequencer (R134 to R143), and the receiver (30_encoding R81). -/

namespace Sys2Proof.Machine

/-- OPEN (R123): refused unless `Disconnected`; the step of R134 or R135 then ends it. It writes `RESULT`, here and at its
end, although 70_reset_and_hazards R219 lists `RESULT` among what carries over a new `OPEN` (log 30). The host's half of
the session begins afresh (43_host_software R176, log 27). -/
def execOpen (s : State) : Result :=
  s.whenQuiescent
    (if s.sess = .disconnected then
      State.freshSession { s with sess := .connecting, result := .none, phase := .opening }
    else s.refuse)

/-- CLOSE (R125, R126): `SESS <- Disconnected`, in any session state. The host's half of the session is torn down with it
(43_host_software R176, log 27). -/
def execClose (s : State) : Result := s.whenQuiescent (State.freshSession { s with sess := .disconnected })

/-- What the acceptance of XFER writes (R127). -/
def State.acceptXfer (s : State) : State :=
  { s.clearVerdict with sess := .awaitingResponse, rxLen := 0#9, txIdx := 0#4, phase := .tx }

/-- XFER (R127): refused unless `SESS = Idle` and `TXLEN = 8`. -/
def execXfer (s : State) : Result :=
  s.whenQuiescent (if s.sess = .idle ∧ s.txLen = 8#4 then s.acceptXfer else s.refuse)

/-- CLRERR (R130): `CMDERR <- 0; FERR <- 0`. -/
def execClrerr (s : State) : Result := s.whenQuiescent { s with cmdErr := false, fErr := false }

/-! ### Small steps -/

/-- Open succeeds (R134). -/
def State.openSucceeds (s : State) : State :=
  { s with aBaud := s.baud, sess := .idle, result := .ok, phase := .idle }

/-- Open fails (R135): the fatal error; `ABAUD`, and what an earlier verdict left in `PAYLEN` and the flags (R124 c,
10_state R21, R34), unchanged (log 15). -/
def State.openFails (s : State) : State := s.loseSession

/-- Send one byte (R136). -/
def State.sendByte (s : State) : State :=
  { s.emit (.txByte (s.txByte s.txIdx.toNat)) with txIdx := s.txIdx + 1#4 }

/-- End of the write (R137): the read timer starts from zero. -/
def State.endWrite (s : State) : State :=
  { s.emit (.log .tx (s.txBytes 8)) with phase := .rx, timer := some 0 }

/-- Fatal error while sending (R138). -/
def State.fatalTx (s : State) : State :=
  ((s.emit (.log .tx (s.txBytes s.txIdx.toNat))).emit .fatal).raise .fatal

/-- `Log(RX, RXBUF[0..RXLEN))`. -/
def State.logRx (s : State) : State := s.emit (.log .rx (s.rxBytes s.rxLen.toNat))

/-- End of the read (R140): the receiver turns off, the timer with it. -/
def State.endRead (s : State) : State := { s.logRx with phase := .check, timer := none }

/-- Timeout (R141). -/
def State.readTimeout (s : State) : State := (s.logRx.emit .timeout).raise .timeout

/-- Fatal error while receiving (R142). -/
def State.fatalRx (s : State) : State := (s.logRx.emit .fatal).raise .fatal

/-- Validate (R143): whatever the verdict, the session returns to `Idle`. -/
def State.checkFrame (s : State) : State := { s.validate with sess := .idle, phase := .idle }

/-- The read timer has reached the live value of `TIMEOUT` (R141, R145). -/
def State.timerExpired (s : State) : Bool := decide (s.timeout.toNat ≤ s.timer.getD 0)

/-- Time passes: the read timer exists only during `P_RX` (10_state R40). -/
def State.advanceTimer (s : State) (ms : Nat) : State :=
  if s.phase = .rx then { s with timer := some (s.timer.getD 0 + ms) } else s

/-- The sequencer's next step with the sampled `LINK_OK`, in the priority of 60_exceptions R203: in `P_TX` and `P_RX`
fatal before everything, in `P_RX` a complete read before the timeout. `LINK_OK` is not looked at in `P_IDLE` (R133)
nor in `P_CHECK` (R143). Where no step is enabled nothing happens. -/
def State.sequencerStep (s : State) (linkOk : Bool) : State :=
  match s.phase with
  | .idle => s
  | .opening => if s.baud ≠ 0#32 ∧ linkOk = true then s.openSucceeds else s.openFails
  | .tx =>
    if linkOk = false then s.fatalTx
    else if s.txIdx.toNat < 8 then s.sendByte
    else if s.txIdx.toNat = 8 then s.endWrite
    else s
  | .rx =>
    if linkOk = false then s.fatalRx
    else if s.rxLen.toNat = s.expLen.toNat then s.endRead
    else if s.rxLen.toNat < s.expLen.toNat ∧ s.timerExpired = true then s.readTimeout
    else s
  | .check => s.checkFrame

/-! ### The receiver -/

/-- A byte on the line (R139); outside the receive phase, or after `EXPLEN` bytes, it leaves no trace (20_memory R64).
The timer is not restarted. -/
def State.receiveByte (s : State) (b : Byte) : State :=
  if s.receiving then (s.appendRx b).emit (.rxByte b) else s

/-- A character whose stop bit is 0 (30_encoding R81): the byte is delivered all the same and `FERR <- 1`. -/
def State.receiveBadStop (s : State) (b : Byte) : State :=
  if s.receiving then { s.receiveByte b with fErr := true } else s

/-- Bytes on the line in time order. -/
def State.receiveBytes (s : State) : List Byte → State
  | [] => s
  | b :: bs => (s.receiveByte b).receiveBytes bs

end Sys2Proof.Machine
end

