-- ==== Sys2Proof/Machine/Line.lean ====
section
/-! DEFINITION. The formats of the line as what happens when they pass on it: a character and a response reach the receiver;
a request is what the block sends in `P_TX`, and reaches the receiver like any other bytes otherwise (log 12, 13). -/

namespace Sys2Proof.Machine

/-- UART_CHAR (30_encoding R79, R81): a character with a good stop bit reaches the receiver. -/
def execUartChar (d : Byte) (s : State) : Result := .next (s.receiveByte d)

/-- RTU_RESPONSE (30_encoding R70): the bytes of the frame reach the receiver in wire order (R55, R139); after `EXPLEN`
bytes or outside `P_RX` they are lost (R64, R71). -/
def execRtuResponse (slave : Byte) (data : List Byte) (crcLo crcHi : Byte) (s : State) : Result :=
  .next (s.receiveBytes (responseBytes slave data crcLo crcHi))

/-- `n` bytes sent (R136). -/
def State.sendBytes (s : State) : Nat → State
  | 0 => s
  | n + 1 => s.sendByte.sendBytes n

/-- The block is about to send exactly these bytes: `P_TX` has begun and `TXBUF` holds them. -/
def State.aboutToSend (s : State) (frame : List Byte) : Bool :=
  decide (s.phase = .tx) && decide (s.txIdx = 0#4) && decide (s.txBytes 8 = frame)

/-- RTU_REQUEST (30_encoding R67, R80): where the block is about to send this frame, the whole write phase (R136 eight
times, R137); else the bytes come from elsewhere and reach the receiver, which takes any bytes (R132). -/
def execRtuRequest (slave startHi startLo countHi countLo crcLo crcHi : Byte) (s : State) : Result :=
  let frame := requestBytes slave startHi startLo countHi countLo crcLo crcHi
  if s.aboutToSend frame then .next (s.sendBytes 8).endWrite else .next (s.receiveBytes frame)

end Sys2Proof.Machine
end

