-- ==== Sys2Proof/Machine/HostProgram.lean ====
section
/-! DEFINITION. The host's program: the pseudo-operations and what they expand to (30_encoding R86, R87, 43_host_software
R186), the poll engine (43_host_software R172 to R186), and how the host issues its lines. -/

namespace Sys2Proof.Machine

/-! ### Expansions -/

/-- A command line for each byte. -/
def byteLines (command : Byte → Instr) (bytes : List Byte) : List Line := bytes.map fun b => .op (command b)

/-- `CRC16` (R87, 40_crc16 R98). -/
def crc16Lines (bytes : List Byte) : List Line := .op .crcinit :: (byteLines .crcbyte bytes ++ [.rd 3#4])

/-- `REQ` (R87, 41_frame_codec R106). -/
def reqLines (slave func start count : Word32) : List Line :=
  [.wr 4#4 slave, .wr 5#4 func, .wr 6#4 start, .wr 7#4 count, .op .build]

/-- `PARSEBYTES` (R87, 41_frame_codec R119). -/
def parseLines (bytes : List Byte) : List Line :=
  .op .rxclr :: (byteLines .rxpush bytes ++ [.op .parse, .rd 2#4, .rd 13#4])

/-- `TRANSACT` (R87). -/
def transactLines (slave func start count : Word32) : List Line :=
  reqLines slave func start count ++ [.op .xfer, .op .wait, .rd 2#4, .rd 1#4, .rd 13#4]

/-- One attempt of `POLL` (43_host_software R186): `XFER; WAIT`, then the decision with `left` retries left. -/
def attemptLines (start : Word32) (shape : Shape) (left : Nat) : List Line :=
  [.op .xfer, .op .wait, .engine (.pollCheck start shape left)]

/-- `POLL` (43_host_software R186), its answer decoded as `shape`. -/
def pollLines (slave func start count : Word32) (shape : Shape) (limit : Nat) : List Line :=
  reqLines slave func start count ++ attemptLines start shape limit

/-- Connecting (43_host_software R172, 42_uart_transceiver R123): the serial parameters, OPEN, and the look at its
outcome. -/
def connectLines (p : HostParams) : List Line :=
  [.wr 8#4 p.baud, .wr 9#4 p.readTimeout, .op .openSession, .op .wait, .engine .connectCheck]

/-- One sweep in its fixed order (43_host_software R173, R179): time block, battery block, cells, alarms, the report of the
alarms, the inter-cycle sleep, and the next sweep. -/
def sweepLines (schedule : Schedule) (interCycle : Nat) : List Line :=
  (schedule.time ++ schedule.battery ++ schedule.cells ++ schedule.alarms).map (fun i => .engine (.item i)) ++
    [.engine .alarmReport, .engine (.pause interCycle), .engine .nextSweep]

/-- Leaving (42_uart_transceiver R146): wait for the running transaction, close, restore `TIMEOUT`. -/
def leaveLines (normal : Word32) : List Line := [.op .wait, .op .closeSession, .wr 9#4 normal]

/-- Stopping (42_uart_transceiver R146, 43_host_software R181): shrink the timeout, then leave. -/
def stopLines (short normal : Word32) : List Line := .wr 9#4 short :: leaveLines normal

/-! ### The poll engine

The host's own part: it chooses the next request, counts retries, sleeps and emits events (R172), and touches no state of
the block. -/

/-- The stop, observed (R181): the worker leaves, whatever was still to do. -/
def State.leave (s : State) : State :=
  { s with
    worker := { s.worker with stopping := false }
    prog := leaveLines s.worker.params.readTimeout }

/-- `s`, or the stop where one has been requested (R181: a stop is observed between transactions). -/
def State.orLeave (s t : State) : State := if s.worker.stopping then t.leave else t

/-- The engine stops (R177, R186): no further line but, where a stop had shrunk it, the restoring of `TIMEOUT`
(70_reset_and_hazards R228). The session is torn down (R176). -/
def State.stopEngine (s : State) : State :=
  { s.freshSession with
    worker := { s.worker with stopping := false }
    prog := if s.worker.stopping then [.wr 9#4 s.worker.params.readTimeout] else [] }

/-- A stop request (R181): the timeout is shrunk at once, also while a read is blocked. A second request adds nothing. -/
def State.requestStop (s : State) : State :=
  if s.worker.stopping then s
  else
    { s with
      worker := { s.worker with stopping := true }
      prog := .wr 9#4 s.worker.params.stopTimeout :: s.prog }

/-- A transaction has succeeded (R186, R184, R176): its values are emitted, the alarms among them kept for the sweep's
report, and the success stamped. DESIGN CHOICE (log 27): a transaction in this sense is one that POLL decides on, so a
TRANSACT or an XFER written out stamps and emits nothing. -/
def State.succeed (s : State) (start : Word32) (values : List Reading) : State :=
  { (s.tell (.value start values)).drawn with
    lastSuccess := some (Config.timestamp s.draws)
    worker := { s.worker with alarms := s.worker.alarms ++ values.filterMap alarmOf } }

/-- The decision of POLL after an attempt (R186, R174, R175, R177, R181): a fatal error emits connection-lost and stops the
engine; an accepted response is decoded and its values emitted; else, while a retry is left, the same transaction again
after a backoff; else the item's error. A stop is observed here, and then nothing is retried. DESIGN CHOICE (log 11): the
item's error is the last `RESULT`, which is `R_OK` where a match flag alone failed. -/
def State.pollDecision (s : State) (start : Word32) (shape : Shape) (left : Nat) : State :=
  if s.result = .error .fatal then (s.tell .connectionLost).stopEngine
  else if s.accepted then s.orLeave (s.succeed start (readings (start.setWidth 16).toNat shape s.payload))
  else if left = 0 ∨ s.worker.stopping = true then s.orLeave (s.tell (.itemError start s.result))
  else
    State.queue { s with retries := s.retries + 1 }
      (.engine (.pause s.worker.params.backoff) :: attemptLines start shape (left - 1))

/-- The address of an item's request for the module selected now (R160, R182). -/
def itemAddress (item : PollItem) (selected : Fin 32) : Nat := item.start + selected.val * item.moduleStride

/-- A scheduled item begins (R173, R182): the selected module index is read, once, before `REQ`; the retry counter starts
from 0 (R176); then POLL of the item with function code 0x03. -/
def State.startItem (s : State) (item : PollItem) : State :=
  State.queue { s with retries := 0 }
    (pollLines s.worker.params.slave 3#32 (BitVec.ofNat 32 (itemAddress item s.worker.selected))
      (BitVec.ofNat 32 item.count) (.fields item.fields) s.worker.params.retryLimit)

/-- A sweep begins (R173). -/
def State.startSweep (s : State) : State :=
  State.queue { s with worker := { s.worker with alarms := [] } }
    (sweepLines s.worker.schedule s.worker.params.interCycle)

/-- The alarm sweep is over: its aggregated event (R184). -/
def State.reportAlarms (s : State) : State :=
  s.tell (.alarmSweep (alarmSweep s.worker.alarms).1 (alarmSweep s.worker.alarms).2)

/-- The decision after OPEN (R172): the first sweep, or the failure reported to the caller. DESIGN CHOICE (log 31): it looks
at `SESS` alone, so that an engine started in an open session, whose OPEN is refused, goes on with it at its `ABAUD`. -/
def State.connectDecision (s : State) : State :=
  if s.sess = .idle then s.queue [.engine .nextSweep] else (s.tell .connectFailed).stopEngine

/-- One step of the engine. A stop is observed between transactions (R181): at a delay, an item, a sweep. DESIGN CHOICE
(log 31): one observed at the backoff between two attempts abandons the item, with neither a value nor an error event. -/
def State.engineStep (s : State) : EngineStep → State
  | .pollCheck start shape left => s.pollDecision start shape left
  | .pause _ => s.orLeave s
  | .item item => if s.worker.stopping then s.leave else s.startItem item
  | .nextSweep => if s.worker.stopping then s.leave else s.startSweep
  | .alarmReport => s.reportAlarms
  | .connectCheck => s.connectDecision

/-- The host's half of the `PollSession` (R176): there is one from a successful OPEN on, until CLOSE or a fatal error. -/
structure PollSession where
  retryCounter : Nat
  lastSuccess : Option Nat
  deriving DecidableEq, Repr

/-- The session the host has now. -/
def State.pollSession (s : State) : Option PollSession :=
  match s.sess with
  | .idle | .awaitingResponse => some { retryCounter := s.retries, lastSuccess := s.lastSuccess }
  | .disconnected | .connecting => none

/-! ### Host actions -/

/-- WAIT (R86): read `STATUS`; while `BUSY = 1`, again. -/
def execWait (s : State) : Result :=
  .next (if s.busy then (s.readReg 1#4).queue [.op .wait] else s.readReg 1#4)

/-- The meaning of a line written by its mnemonic, for the lines the expansions hold: the ten commands and WAIT. A
pseudo-operation inside another does not occur; it would wait its turn. A format of the line is none of the host's
(20_memory R46). -/
def runMnemonic (i : Instr) (s : State) : Result :=
  match i with
  | .crcinit => execCrcinit s
  | .crcbyte b => execCrcbyte b s
  | .build => execBuild s
  | .rxclr => execRxclr s
  | .rxpush b => execRxpush b s
  | .parse => execParse s
  | .openSession => execOpen s
  | .closeSession => execClose s
  | .xfer => execXfer s
  | .clrerr => execClrerr s
  | .wait => execWait s
  | .crc16 _ | .req _ _ _ _ | .parsebytes _ | .transact _ _ _ _ | .poll _ _ _ _ _ => .next (s.queue [.op i])
  | .rtuRequest _ _ _ _ _ _ _ | .rtuResponse _ _ _ _ | .uartChar _ => .fault .hostDrivesLine

/-- A write of `CMD` (R82: bits above 15 dropped; R85: a reserved operation is refused). -/
def writeCmd (v : Word32) (s : State) : Result :=
  match decode (.cmd (v.setWidth 16)) with
  | .ok i => runMnemonic i s
  | .error _ => .next s.refuse

/-- One host action (20_memory R47): complete before the next begins. -/
def issueLine (l : Line) (s : State) : Result :=
  match l with
  | .wr n v => if n = 0#4 then writeCmd v s else .next (s.writeReg n v)
  | .rd n => .next (s.readReg n)
  | .rdbTx i => s.readTxBuf i
  | .rdbRx i => s.readRxBuf i
  | .op i => runMnemonic i s
  | .engine e => .next (s.engineStep e)

/-- The host issues the lines of an expansion one after another while the block is quiescent, each complete before the
next (R47, R58); once the block is busy the rest waits at the head of the program, one line a turn (log 9). -/
def issue : List Line → State → Result
  | [], s => .next s
  | l :: ls, s =>
    if s.busy then .next (s.queue (l :: ls))
    else match issueLine l s with
      | .next t => issue ls t
      | .fault r => .fault r
      | .refused r => .refused r

/-- CRC16 (40_crc16 R98). -/
def execCrc16 (bytes : List Byte) (s : State) : Result := issue (crc16Lines bytes) s

/-- REQ (41_frame_codec R106). -/
def execReq (slave func start count : Word32) (s : State) : Result := issue (reqLines slave func start count) s

/-- PARSEBYTES (41_frame_codec R119). -/
def execParsebytes (bytes : List Byte) (s : State) : Result := issue (parseLines bytes) s

/-- TRANSACT (30_encoding R87). -/
def execTransact (slave func start count : Word32) (s : State) : Result := issue (transactLines slave func start count) s

/-- POLL (43_host_software R186); the retry counter starts from 0 for each item (R176). Its operands name no entry of the
catalog, so its answer is decoded register by register (log 11). -/
def execPoll (slave func start count : Word32) (limit : Nat) (s : State) : Result :=
  issue (pollLines slave func start count .registers limit) { s with retries := 0 }

end Sys2Proof.Machine
end

