-- ==== Sys2Proof/Machine/Dispatch.lean ====
section
/-! DEFINITION. The dispatch: one arm per instruction. -/

namespace Sys2Proof.Machine

def exec (i : Instr) (s : State) : Host.Outcome State Fault Refusal :=
  match i with
  | .crcinit => Sys2Proof.Machine.execCrcinit s
  | .crcbyte b => Sys2Proof.Machine.execCrcbyte b s
  | .build => Sys2Proof.Machine.execBuild s
  | .rxclr => Sys2Proof.Machine.execRxclr s
  | .rxpush b => Sys2Proof.Machine.execRxpush b s
  | .parse => Sys2Proof.Machine.execParse s
  | .openSession => Sys2Proof.Machine.execOpen s
  | .closeSession => Sys2Proof.Machine.execClose s
  | .xfer => Sys2Proof.Machine.execXfer s
  | .clrerr => Sys2Proof.Machine.execClrerr s
  | .crc16 bytes => Sys2Proof.Machine.execCrc16 bytes s
  | .req slave func start count => Sys2Proof.Machine.execReq slave func start count s
  | .parsebytes bytes => Sys2Proof.Machine.execParsebytes bytes s
  | .transact slave func start count => Sys2Proof.Machine.execTransact slave func start count s
  | .poll slave func start count limit => Sys2Proof.Machine.execPoll slave func start count limit s
  | .wait => Sys2Proof.Machine.execWait s
  | .rtuRequest slave sh sl ch cl crcLo crcHi => Sys2Proof.Machine.execRtuRequest slave sh sl ch cl crcLo crcHi s
  | .rtuResponse slave data crcLo crcHi => Sys2Proof.Machine.execRtuResponse slave data crcLo crcHi s
  | .uartChar d => Sys2Proof.Machine.execUartChar d s

end Sys2Proof.Machine
end

