-- ==== Sys2Proof/Machine/Fetch.lean ====
section
/-! DEFINITION. Fetching: the host's next program line, the environment's next answer, and placing an instruction where the
next step fetches. The instruction stream is the host's program order (92_eei_decisions D26) and what the line carries. -/

namespace Sys2Proof.Machine

/-- A line of the host's program: a write of `CMD` is decoded (R82, R85), a mnemonic line is the instruction itself; a
host line cannot name a format of the line (R46). -/
def runLine (l : Line) (s : State) : Result :=
  match l with
  | .wr n v =>
    if n = 0#4 then
      match decode (.cmd (v.setWidth 16)) with
      | .ok i => exec i s
      | .error _ => .next s.refuse
    else issueLine l s
  | .op i => if i.isWire then .fault .hostDrivesLine else exec i s
  | .rd _ | .rdbTx _ | .rdbRx _ | .engine _ => issueLine l s

/-- The host's turn: its next line; at the end of its program a requested stop (43_host_software R181), or nothing
(70_reset_and_hazards R215). -/
def hostTurn (s : State) : Result :=
  match s.prog with
  | [] => .next (s.orLeave s)
  | l :: rest => runLine l { s with prog := rest }

/-- A character on the line (R79, R81): without a start bit it is none. -/
def lineChar (levels : BitVec 10) (s : State) : Result :=
  match decode (.char levels) with
  | .ok i => exec i s
  | .error .badStopBit => .next (s.receiveBadStop (charData levels))
  | .error _ => .next s

/-- A frame on the line: one of the two formats, or any bytes (R132). -/
def lineFrame (kind : FrameKind) (bytes : List Byte) (s : State) : Result :=
  match decode (.frame kind bytes) with
  | .ok i => exec i s
  | .error _ => .next (s.receiveBytes bytes)

/-- One answer of the environment. -/
def runEvent (e : Event) (s : State) : Result :=
  match e with
  | .host => hostTurn s
  | .tick ms => .next ((s.advanceTimer ms).sequencerStep true)
  | .linkDown => .next (s.sequencerStep false)
  | .char levels => lineChar levels s
  | .frame kind bytes => lineFrame kind bytes s
  | .reset => .next s.resetBlock
  | .selectModule m => .next { s with worker := { s.worker with selected := m } }
  | .stopRequest => .next s.requestStop

/-- One step: the script's next answer; with the script empty, the host while the block is quiescent and a free answer
while it is busy (log 4). -/
def runStep (s : State) : Result :=
  match s.env with
  | e :: rest => runEvent e { s with env := rest }
  | [] => if s.busy then runEvent (Config.envAnswer s.draws) s.drawn else hostTurn s

/-- The state whose very next step runs the instruction of this code: a command word is a host line and the host's turn,
a frame or a character is what the line carries next (log 3). -/
def placeCode (c : Code) (s : State) : State :=
  match c with
  | .cmd w => { s with prog := .wr 0#4 (w.setWidth 32) :: s.prog, env := .host :: s.env }
  | .frame kind bytes => { s with env := .frame kind bytes :: s.env }
  | .char levels => { s with env := .char levels :: s.env }

end Sys2Proof.Machine
end

