-- ==== Sys2Proof/Machine/Step.lean ====
section
/-! DEFINITION. One step of the machine, and placing an instruction of the opcode table where it fetches. -/

namespace Sys2Proof.Machine

/-- One step. -/
def step (s : State) : Host.Outcome State Fault Refusal := Sys2Proof.Machine.runStep s

/-- `s` with the instruction of the table bits `w` where `step` fetches next. -/
def State.withFetchWord (s : State) (nbits w : Nat) : State :=
  Sys2Proof.Machine.placeCode (Sys2Proof.codeOfTableWord nbits w) s

end Sys2Proof.Machine
end

