-- ==== Sys2Proof/Machine/HostCatalog.lean ====
section
/-! DEFINITION. The host's register catalog (43_host_software R160 to R171): families of slave addresses, outside the block.
Every base is a parameter of the device variant (R171, D35); the schedule and the start of the poll engine from it. -/

namespace Sys2Proof.Machine

/-! ### Families -/

/-- What the first index of a family counts (R161). -/
inductive OuterIndex where
  | single
  | module
  | bank
  deriving DecidableEq, Repr, Inhabited

/-- What the second index of a family counts (R161). -/
inductive InnerIndex where
  | single
  | cell
  deriving DecidableEq, Repr, Inhabited

/-- Indexes run from 1 to this (R161): module 1 to 32, bank 1 to 10. -/
def outerCount : OuterIndex → Nat
  | .single => 1
  | .module => 32
  | .bank => 10

/-- Indexes run from 1 to this (R161): cell 1 to 15. -/
def innerCount : InnerIndex → Nat
  | .single => 1
  | .cell => 15

/-- A family of registers (R160): `address(m, c) = base + (m-1) × outerStride + (c-1) × innerStep`, and the values found
there, with their types and scales (R157). -/
structure RegisterFamily where
  base : Nat
  outer : OuterIndex
  outerStride : Nat
  inner : InnerIndex
  innerStep : Nat
  fields : List Field
  deriving DecidableEq, Repr

/-- The address of R160, on integers without wrap-around; none outside the index ranges of R161. -/
def familyAddress (f : RegisterFamily) (m c : Nat) : Option Nat :=
  if 1 ≤ m ∧ m ≤ outerCount f.outer ∧ 1 ≤ c ∧ c ≤ innerCount f.inner then
    some (f.base + (m - 1) * f.outerStride + (c - 1) * f.innerStep)
  else none

/-- The registers a request for all the values of a family at one index covers. -/
def familySpan (f : RegisterFamily) : Nat := f.fields.foldl (fun n x => max n (x.offset + registersOf x.type)) 0

/-- Every register a family covers, for its valid indexes. -/
def familyRegisters (f : RegisterFamily) : List Nat :=
  (List.range (outerCount f.outer)).flatMap fun m => (List.range (innerCount f.inner)).flatMap fun c =>
    f.fields.flatMap fun x => (List.range (registersOf x.type)).map fun k =>
      f.base + m * f.outerStride + c * f.innerStep + x.offset + k

/-! ### The startup check -/

/-- Why a catalog is refused at startup (R170). -/
inductive CatalogConfigError where
  | outOfRange (address : Nat)
  | overlap (address : Nat)
  /-- More alarms of a module than 13, or one of them twice (R167). -/
  | alarms
  deriving DecidableEq, Repr

/-- The registers of one family against those already taken. -/
def checkRegisters (taken : List Nat) : List Nat → Except CatalogConfigError Unit
  | [] => .ok ()
  | a :: rest =>
    if 0xFFFF < a then .error (.outOfRange a)
    else if a ∈ taken then .error (.overlap a)
    else checkRegisters taken rest

/-- The startup assertion of R170: addresses stay within 16 bits and no family meets another. -/
def checkCatalog (taken : List Nat) : List RegisterFamily → Except CatalogConfigError Unit
  | [] => .ok ()
  | f :: rest =>
    match checkRegisters taken (familyRegisters f) with
    | .ok _ => checkCatalog (taken ++ familyRegisters f) rest
    | .error e => .error e

/-! ### A device variant -/

/-- The bases of a device variant (D35). -/
structure CatalogBases where
  timeBase : Nat
  moduleBase : Nat
  barcodeBase : Nat
  cellTempBase : Nat
  cellVoltBase : Nat
  alarmBase : Nat
  lithiumBase : Nat
  deriving DecidableEq, Repr

/-- A fixed entry whose address and type the source does not give (R162). -/
structure FixedEntry where
  address : Nat
  type : ValueType
  deriving DecidableEq, Repr

/-- An alarm of a module: which one, its register counted from the module's alarm base, and its place in it (R167). -/
structure AlarmSpot where
  name : AlarmName
  offset : Nat
  place : AlarmPlace
  deriving DecidableEq, Repr

/-- A bank family (R161): the source gives no base, stride or content (91_not_in_source N12). -/
structure BankEntry where
  base : Nat
  stride : Nat
  fields : List Field
  deriving DecidableEq, Repr

/-- A device variant (R171): the bases of D35, and what D35 makes parameters beside them, the identity and global entries
of R162. -/
structure DeviceVariant extends CatalogBases where
  /-- The stride of the lithium code, one register a module (R168). -/
  lithiumStride : Nat
  /-- The alarms of a module, at most 13 (R167). -/
  alarms : List AlarmSpot
  vendor : FixedEntry
  model : FixedEntry
  version : FixedEntry
  /-- The two packed-ASCII blocks: address and number of registers. -/
  text1 : Nat × Nat
  text2 : Nat × Nat
  batteryTemperature : FixedEntry
  batteryMissing : Nat × AlarmPlace
  banks : List BankEntry
  deriving DecidableEq, Repr

/-- A family of one value without index. -/
def fixedFamily (key : FieldKey) (e : FixedEntry) (scale : Scale) : RegisterFamily :=
  ⟨e.address, .single, 0, .single, 0, [⟨key, 0, e.type, scale⟩]⟩

/-- A family of one value for each module. -/
def moduleFamily (base stride : Nat) (key : FieldKey) (type : ValueType) (scale : Scale) : RegisterFamily :=
  ⟨base, .module, stride, .single, 0, [⟨key, 0, type, scale⟩]⟩

/-- A family of one register for each cell of each module, stride 0x40, step 1 (R166). -/
def cellFamily (base : Nat) (key : FieldKey) (type : ValueType) (scale : Scale) : RegisterFamily :=
  ⟨base, .module, 0x40, .cell, 1, [⟨key, 0, type, scale⟩]⟩

/-- The time block (R163): six consecutive `uint16` registers, unscaled, in this order. -/
def timeFamily (b : CatalogBases) : RegisterFamily :=
  ⟨b.timeBase, .single, 0, .single, 0,
    [⟨.year, 0, .uint16, .unit⟩, ⟨.month, 1, .uint16, .unit⟩, ⟨.day, 2, .uint16, .unit⟩, ⟨.hour, 3, .uint16, .unit⟩,
     ⟨.minute, 4, .uint16, .unit⟩, ⟨.second, 5, .uint16, .unit⟩]⟩

/-- Module total voltage (R164): `uint32`, ÷10, at offset 0. -/
def voltageFamily (b : CatalogBases) : RegisterFamily := moduleFamily b.moduleBase 0x40 .totalVoltage .uint32 .tenth

/-- Module current (R164): `int32`, ÷10, at offset 2. -/
def currentFamily (b : CatalogBases) : RegisterFamily := moduleFamily (b.moduleBase + 2) 0x40 .current .int32 .tenth

/-- SOC (R164): `uint16`, unscaled, at offset 8. -/
def socFamily (b : CatalogBases) : RegisterFamily := moduleFamily (b.moduleBase + 8) 0x40 .soc .uint16 .unit

/-- Barcode (R165): a string of fifteen registers, stride 0x20. -/
def barcodeFamily (b : CatalogBases) : RegisterFamily := moduleFamily b.barcodeBase 0x20 .barcode (.asciiString 15) .unit

/-- Cell temperature (R166): `int16`, ÷10. -/
def cellTempFamily (b : CatalogBases) : RegisterFamily := cellFamily b.cellTempBase .cellTemperature .int16 .tenth

/-- Cell voltage (R166): `uint16`, ÷10. -/
def cellVoltFamily (b : CatalogBases) : RegisterFamily := cellFamily b.cellVoltBase .cellVoltage .uint16 .tenth

/-- The lithium abnormal code (R168): one register per module. -/
def lithiumFamily (b : CatalogBases) (stride : Nat) : RegisterFamily :=
  moduleFamily b.lithiumBase stride (.alarm .lithiumAbnormal .register) .uint16 .unit

/-- The alarms of a module (R167): stride 0x40 from the alarm base. -/
def alarmFamily (b : CatalogBases) (alarms : List AlarmSpot) : RegisterFamily :=
  ⟨b.alarmBase, .module, 0x40, .single, 0,
    alarms.map fun a => ⟨.alarm (.ofModule a.name) a.place, a.offset, .uint16, .unit⟩⟩

/-- The identity block (R162): vendor, model and version words and two packed-ASCII blocks. -/
def identityFamilies (v : DeviceVariant) : List RegisterFamily :=
  [fixedFamily .vendor v.vendor .unit, fixedFamily .model v.model .unit, fixedFamily .version v.version .unit,
   fixedFamily .identityText1 ⟨v.text1.1, .asciiString v.text1.2⟩ .unit,
   fixedFamily .identityText2 ⟨v.text2.1, .asciiString v.text2.2⟩ .unit]

/-- The global battery temperature (R162), ÷10 as every temperature (R157). -/
def batteryTempFamily (v : DeviceVariant) : RegisterFamily := fixedFamily .batteryTemperature v.batteryTemperature .tenth

/-- The global "battery missing" alarm bit (R162). -/
def batteryMissingFamily (v : DeviceVariant) : RegisterFamily :=
  fixedFamily (.alarm .batteryMissing v.batteryMissing.2) ⟨v.batteryMissing.1, .uint16⟩ .unit

/-- A bank family (R161). -/
def bankFamily (e : BankEntry) : RegisterFamily := ⟨e.base, .bank, e.stride, .single, 0, e.fields⟩

/-- The families of a device variant (R171). -/
def families (v : DeviceVariant) : List RegisterFamily :=
  let b := v.toCatalogBases
  identityFamilies v ++
    [batteryTempFamily v, timeFamily b, batteryMissingFamily v, voltageFamily b, currentFamily b, socFamily b,
     barcodeFamily b, cellTempFamily b, cellVoltFamily b, alarmFamily b v.alarms, lithiumFamily b v.lithiumStride] ++
    v.banks.map bankFamily

/-- A module has at most 13 alarms, each once (R167). -/
def alarmsWellFormed (v : DeviceVariant) : Bool :=
  decide (v.alarms.length ≤ 13) && decide (v.alarms.map AlarmSpot.name).Nodup

/-- The one catalog of a device variant (R171), where its construction passes the assertions of R167 and R170. -/
def catalog (v : DeviceVariant) : Except CatalogConfigError (List RegisterFamily) :=
  if alarmsWellFormed v then (checkCatalog [] (families v)).map fun _ => families v else .error .alarms

/-! ### Polling the catalog -/

/-- The poll of the values of a family at one index (R173, R186): slave id, function code 0x03, the registers. None outside
the index ranges. -/
def pollValue (slave : Word32) (f : RegisterFamily) (m c limit : Nat) : Option Instr :=
  (familyAddress f m c).map fun a => .poll slave 3#32 (BitVec.ofNat 32 a) (BitVec.ofNat 32 (familySpan f)) limit

/-- The item that reads a family at inner index `c` for the module selected at its turn (R182). None outside the range. -/
def selectedItem (f : RegisterFamily) (c : Nat) : Option PollItem :=
  (familyAddress f 1 c).map fun a =>
    { start := a, moduleStride := f.outerStride, count := familySpan f, fields := f.fields }

/-- The item that reads a family at one index, whatever module is selected. None outside the range. -/
def fixedItem (f : RegisterFamily) (m c : Nat) : Option PollItem :=
  (familyAddress f m c).map fun a => { start := a, moduleStride := 0, count := familySpan f, fields := f.fields }

/-- The battery block as one request (R164): voltage, current and SOC of the selected module at offsets 0, 2 and 8. -/
def batteryBlockItem (b : CatalogBases) : PollItem :=
  { start := b.moduleBase, moduleStride := 0x40, count := 9
    fields := [⟨.totalVoltage, 0, .uint32, .tenth⟩, ⟨.current, 2, .int32, .tenth⟩, ⟨.soc, 8, .uint16, .unit⟩] }

/-- One schedule for a variant, a request for each value (R173). The source leaves open which requests each part makes
(91_not_in_source N13): this one is the model's choice (log 31) and any other `Schedule` may stand in its place. -/
def scheduleOf (v : DeviceVariant) : Schedule :=
  let b := v.toCatalogBases
  let cells := (List.range 15).map (· + 1)
  let modules := (List.range 32).map (· + 1)
  { time := [fixedItem (timeFamily b) 1 1].reduceOption
    battery :=
      [selectedItem (voltageFamily b) 1, selectedItem (currentFamily b) 1, selectedItem (socFamily b) 1].reduceOption
    cells := (cells.flatMap fun c => [selectedItem (cellTempFamily b) c, selectedItem (cellVoltFamily b) c]).reduceOption
    alarms := ((modules.flatMap fun m =>
        [fixedItem (alarmFamily b v.alarms) m 1, fixedItem (lithiumFamily b v.lithiumStride) m 1]) ++
      [fixedItem (batteryMissingFamily v) 1 1]).reduceOption }

/-- Starting the poll engine: the catalog is built and checked once, before any command reaches the block (R170), then the
host connects (R172). DESIGN CHOICE (log 31): any schedule is taken; its items need not be entries of the catalog, and an
item's address that passes 0xFFFF is cut by the write of `START` (10_state R36). -/
def State.startEngine (s : State) (v : DeviceVariant) (params : HostParams) (schedule : Schedule) :
    Except CatalogConfigError State :=
  (catalog v).map fun _ =>
    { s with
      worker := { s.worker with params := params, schedule := schedule, stopping := false, alarms := [] }
      prog := connectLines params }

end Sys2Proof.Machine
end

