-- ==== Sys2Proof/Safety.lean ====
section
/-! DEFINITION. What the claims are stated in: runs of several steps, the fair runs, and the invariant of the machine. -/

namespace Sys2Proof.Machine

/-- `n` steps, as long as each answers a next state. -/
def runSteps : Nat → State → Option State
  | 0, s => some s
  | n + 1, s =>
    match step s with
    | .next t => runSteps n t
    | .fault _ => none
    | .refused _ => none

/-- `s` with one more line at the head of the host's program and the host's turn next. -/
def State.hostNext (s : State) (l : Line) : State := { s with prog := l :: s.prog, env := .host :: s.env }

/-- `s` with one more answer of the environment, drawn next. -/
def State.eventNext (s : State) (e : Event) : State := { s with env := e :: s.env }

/-- `s` with a script of answers in front of its own. -/
def State.scripted (s : State) (es : List Event) : State := { s with env := es ++ s.env }

/-- The character that carries `b`, as an answer of the environment (30_encoding R79). -/
def charEvent (b : Byte) : Event := .char (encodeChar b)

/-- The write phase with `LINK_OK = 1` (42_uart_transceiver R136 eight times, R137). -/
def sendScript : List Event := List.replicate 9 (.tick 0)

/-- Byte-wise equality of both buffers, listed or not. -/
def State.sameBuffers (s t : State) : Prop :=
  (∀ a, t.txBuf.read a = s.txBuf.read a) ∧ ∀ a, t.rxBuf.read a = s.rxBuf.read a

/-- A command that is refused though the block is quiescent (60_exceptions R196 e to h). -/
def commandRefused (i : Instr) (s : State) : Bool :=
  match i with
  | .build => decide (125 < s.count.toNat)
  | .rxpush _ => decide (s.rxLen = 256#9)
  | .openSession => decide (s.sess ≠ .disconnected)
  | .xfer => decide (s.sess ≠ .idle) || decide (s.txLen ≠ 8#4)
  | .crcinit | .crcbyte _ | .rxclr | .parse | .closeSession | .clrerr => false
  | .crc16 _ | .req _ _ _ _ | .parsebytes _ | .transact _ _ _ _ | .poll _ _ _ _ _ | .wait => false
  | .rtuRequest _ _ _ _ _ _ _ | .rtuResponse _ _ _ _ | .uartChar _ => false

/-- The refused actions of 60_exceptions R196: (a), (b) any write but of `TIMEOUT` while busy; (c) a read-only or
reserved register; (d) a reserved operation code; (e) to (h) `commandRefused`. -/
def actionRefused (l : Line) (s : State) : Bool :=
  match l with
  | .wr n v =>
    (s.busy && decide (n ≠ 9#4)) || decide (n.toNat ∈ [1, 2, 10, 11, 12, 13, 14, 15]) ||
    (decide (n = 0#4) &&
      match decodeCmd (v.setWidth 16) with
      | .ok i => commandRefused i s
      | .error _ => true)
  | .op i => s.busy || commandRefused i s
  | .rd _ | .rdbTx _ | .rdbRx _ | .engine _ => false

/-- The single actions of the host port (20_memory R47): register write, register read, buffer byte read, and a command
written by its mnemonic. -/
def isPortAction (l : Line) : Bool :=
  match l with
  | .wr _ _ | .rd _ | .rdbTx _ | .rdbRx _ => true
  | .op i => i.isCommand
  | .engine _ => false

/-- A transaction that nothing answers, as POLL sees it: the host's XFER, the write phase, `ms` milliseconds of silence,
the host's WAIT, its decision, its backoff. -/
def silentAttempt (ms : Nat) : List Event := .host :: sendScript ++ [.tick ms, .host, .host, .host]

/-- A transaction answered by `bytes`, up to the host's decision. -/
def answeredAttempt (bytes : List Byte) : List Event :=
  .host :: sendScript ++ bytes.map charEvent ++ [.tick 0, .tick 0, .host, .host]

/-! ### Fair runs -/

/-- The answer the next step takes. -/
def nextEvent (s : State) : Event :=
  match s.env with
  | e :: _ => e
  | [] => if s.busy then Config.envAnswer s.draws else .host

/-- The sequencer takes its step at this answer. -/
def isSequencerTurn : Event → Bool
  | .tick _ | .linkDown => true
  | .host | .char _ | .frame _ _ | .reset | .selectModule _ | .stopRequest => false

/-- An infinite run under the assumption 42_uart_transceiver R148 asks a model to make (log 5). -/
structure FairRun (f : Nat → State) : Prop where
  /-- The states follow one another by `step`. -/
  run : ∀ n, step (f n) = .next (f (n + 1))
  /-- The sequencer of a block that stays busy gets a turn. -/
  sequencer : ∀ n, (∀ m, n ≤ m → (f m).busy = true) → ∃ m, n ≤ m ∧ isSequencerTurn (nextEvent (f m)) = true
  /-- Weak fairness of R141: a timeout step that stays enabled, as the byte level has it (`PHASE = P_RX` and
  `RXLEN < EXPLEN`), is taken. -/
  timeout : ∀ n, (∀ m, n ≤ m → (f m).phase = .rx ∧ (f m).rxLen.toNat < (f m).expLen.toNat) →
    ∃ m ms, n ≤ m ∧ nextEvent (f m) = .tick ms ∧ (f m).timeout.toNat ≤ (f m).timer.getD 0 + ms

/-! ### The invariant -/

/-- Both buffers keep their canonical form (10_state R41, R42). -/
def State.memWf (s : State) : Bool := s.txBuf.wf Config.txCap && s.rxBuf.wf Config.rxCap

/-- The session agrees with the phase (10_state R16, R37): `Connecting` is `P_OPEN`, `AwaitingResponse` is `P_TX`, `P_RX`
or `P_CHECK`, and in `P_IDLE` the session is `Disconnected` or `Idle`. -/
def sessionAgrees : Session → Phase → Bool
  | .disconnected, .idle => true
  | .idle, .idle => true
  | .connecting, .opening => true
  | .awaitingResponse, .tx => true
  | .awaitingResponse, .rx => true
  | .awaitingResponse, .check => true
  | _, _ => false

/-- The transitions of the session (42_uart_transceiver R131), as pairs. -/
def sessionTransitions : List (Session × Session) :=
  [(.disconnected, .connecting), (.connecting, .idle), (.connecting, .disconnected), (.idle, .awaitingResponse),
   (.awaitingResponse, .idle), (.awaitingResponse, .disconnected), (.idle, .disconnected)]

/-- A transaction is running: `P_TX`, `P_RX` or `P_CHECK`. -/
def State.inTransaction (s : State) : Bool :=
  decide (s.phase = .tx) || decide (s.phase = .rx) || decide (s.phase = .check)

/-- What holds of the machine in every reachable state. -/
structure State.Inv (s : State) : Prop where
  /-- The buffers are canonical. -/
  memWf : s.memWf = true
  /-- R16, R37. -/
  session : sessionAgrees s.sess s.phase = true
  /-- R40: the read timer runs in `P_RX` and is stopped in every other phase. -/
  timer : s.timer.isSome = decide (s.phase = .rx)
  /-- R31, R32: nothing built, or a request of at most 125 registers and the length of its response. -/
  built : (s.txLen = 0#4 ∧ s.expLen = 0#9) ∨
    (s.txLen = 8#4 ∧ (pair (s.txByte 4) (s.txByte 5)).toNat ≤ 125 ∧
      s.expLen.toNat = 5 + 2 * (pair (s.txByte 4) (s.txByte 5)).toNat)
  /-- R41: once built, `TXBUF` is a whole request with its CRC. -/
  request : s.txLen = 8#4 → (∀ i, i < 8 → (s.txBuf.read i).isSome = true) ∧ s.txBytes 8 = withCrc (s.txBytes 6)
  /-- R33. -/
  rxLen : s.rxLen.toNat ≤ 256
  /-- R42: the bytes below `RXLEN` are held. -/
  received : ∀ i, i < s.rxLen.toNat → (s.rxBuf.read i).isSome = true
  /-- R127: a transaction runs only with a built request. -/
  transaction : s.inTransaction = true → s.txLen = 8#4
  /-- R38, R127: while sending nothing has been received. -/
  sending : s.phase = .tx → s.txIdx.toNat ≤ 8 ∧ s.rxLen = 0#9
  /-- R139, R140. -/
  receiving : s.phase = .rx → s.rxLen.toNat ≤ s.expLen.toNat
  /-- R140. -/
  checking : s.phase = .check → s.rxLen = s.expLen
  /-- R57: no result while busy. -/
  noResult : s.busy = true → s.result = .none
  /-- R57: no verdict during a transaction. -/
  noVerdict : s.inTransaction = true →
    s.tmo = false ∧ s.payLen = 0#8 ∧ s.slvOk = false ∧ s.funOk = false ∧ s.cntOk = false

end Sys2Proof.Machine
end

