-- ==== Sys2Proof/Certificates/Slice0/Obligations.lean ====
section
/-! DEFINITION. The statements for the provers, each from the rules of spec/ its entry in OBLIGATIONS.json cites. -/

open Sys2Proof Sys2Proof.Machine

/-! ### The CRC16 unit -/

/-- R94, R95: a round tests bit 0, shifts right logically and, where the bit is set, adds 0xA001; a byte enters by `xor` and
eight rounds follow; `crc16` starts from 0xFFFF and takes the bytes in order. Their consequences, each the spec's own
inference (R101: "[derived: from rules R94 and R95]"), are (e), the check value of the nine bytes 31 to 39; (a), one byte
step is its table form, `T[i]` being eight rounds of `i`; (b), a byte string followed by its own CRC, low byte first, has
CRC 0; (c), the difference of the CRCs of two strings of one length depends on the difference of the strings alone. -/
def Obligations.CrcTableFormResidueAndDifferences : Prop :=
  (∀ c : Word16, crcRounds 0 c = c ∧
    ∀ n, crcRounds (n + 1) c = crcRounds n (if c.getLsbD 0 then (c >>> 1) ^^^ 0xA001#16 else c >>> 1)) ∧
  (∀ (c : Word16) (b : Byte), crcStep c b = crcRounds 8 (c ^^^ b.setWidth 16)) ∧
  crc16 [] = 0xFFFF#16 ∧ (∀ (bytes : List Byte) (b : Byte), crc16 (bytes ++ [b]) = crcStep (crc16 bytes) b) ∧
  crc16 [0x31#8, 0x32#8, 0x33#8, 0x34#8, 0x35#8, 0x36#8, 0x37#8, 0x38#8, 0x39#8] = 0x4B37#16 ∧
  (∀ (c : Word16) (b : Byte),
    crcStep c b = (c >>> 8) ^^^ crcRounds 8 ((loByte (c ^^^ b.setWidth 16)).setWidth 16)) ∧
  (∀ body : List Byte, crc16 (withCrc body) = 0#16) ∧
  ∀ a b a' b' : List Byte, a.length = b.length → a'.length = b'.length →
    List.zipWith (· ^^^ ·) a b = List.zipWith (· ^^^ ·) a' b' → crc16 a ^^^ crc16 b = crc16 a' ^^^ crc16 b'

/-- R96, R97: the command words of CRCINIT and CRCBYTE; CRCINIT writes 0xFFFF to `CRC`, CRCBYTE b writes one step of
whatever `CRC` holds; nothing else changes, in every session state; both are refused while busy. -/
def Obligations.CrcCommandsWriteTheAccumulatorAlone : Prop :=
  ∀ (s : State) (b : Byte),
    decode (.cmd (pair b 0x01#8)) = .ok .crcinit ∧ decode (.cmd (pair b 0x02#8)) = .ok (.crcbyte b) ∧
    (s.busy = false → exec .crcinit s = .next { s with crc := 0xFFFF#16 }) ∧
    (s.busy = false → exec (.crcbyte b) s = .next { s with crc := crcStep s.crc b }) ∧
    (s.busy = true → exec .crcinit s = .next { s with cmdErr := true }) ∧
    (s.busy = true → exec (.crcbyte b) s = .next { s with cmdErr := true })

/-- R98: CRC16 leaves `crc16` of its bytes in `CRC`, and that is what its read returns. That its lines are issued in one
step while the block is quiescent is the model's choice (log 9). -/
def Obligations.Crc16ReturnsTheCrcOfItsBytes : Prop :=
  ∀ (bytes : List Byte) (s : State), s.busy = false →
    exec (.crc16 bytes) s =
      .next { s with crc := crc16 bytes, trace := s.trace ++ [.reg 3#4 ((crc16 bytes).setWidth 32)] }

/-! ### The frame codec -/

/-- R102, R103, R104: the command word of BUILD. It writes the eight bytes of the request in wire order, its CRC low byte
first, `CRC`, `TXLEN`, `EXPLEN`, no other byte of a buffer and no other register; with `COUNT > 125`, compared on all
sixteen bits, or while busy, it sets `CMDERR` and changes nothing else. -/
def Obligations.BuildWritesTheRequestOrIsRefused : Prop :=
  ∀ s : State,
    (∀ arg : Byte, decode (.cmd (pair arg 0x03#8)) = .ok .build) ∧
    (s.busy = false → s.count.toNat ≤ 125 →
      ∃ t, exec .build s = .next t ∧
        t.crc = crc16 [s.slave, s.func, hiByte s.start, loByte s.start, hiByte s.count, loByte s.count] ∧
        (List.range 8).map t.txBuf.read =
          [some s.slave, some s.func, some (hiByte s.start), some (loByte s.start), some (hiByte s.count),
           some (loByte s.count), some (loByte t.crc), some (hiByte t.crc)] ∧
        (∀ a, 8 ≤ a → t.txBuf.read a = s.txBuf.read a) ∧
        t.txLen = 8#4 ∧ t.expLen.toNat = 5 + 2 * s.count.toNat ∧
        t = { s with txBuf := t.txBuf, crc := t.crc, txLen := t.txLen, expLen := t.expLen }) ∧
    (s.busy = true ∨ 125 < s.count.toNat → exec .build s = .next { s with cmdErr := true })

/-- R107, R108: the command words of RXCLR and RXPUSH. RXCLR empties the receive buffer without erasing it and clears the
verdict. RXPUSH b appends one byte at `RXLEN` and clears the verdict; it is refused when the buffer is full. Both are
refused while busy. -/
def Obligations.RxclrAndRxpushFillTheReceiveBuffer : Prop :=
  ∀ (s : State) (b : Byte),
    decode (.cmd (pair b 0x04#8)) = .ok .rxclr ∧ decode (.cmd (pair b 0x05#8)) = .ok (.rxpush b) ∧
    (s.busy = false → exec .rxclr s = .next { s with
      rxLen := 0#9, result := .none, payLen := 0#8, tmo := false, slvOk := false, funOk := false, cntOk := false }) ∧
    (s.busy = true → exec .rxclr s = .next { s with cmdErr := true }) ∧
    (s.busy = false → s.rxLen.toNat < 256 →
      ∃ t, exec (.rxpush b) s = .next t ∧ t.rxLen.toNat = s.rxLen.toNat + 1 ∧
        (∀ a, t.rxBuf.read a = if a = s.rxLen.toNat then some b else s.rxBuf.read a) ∧
        t = { s with
          rxBuf := t.rxBuf, rxLen := t.rxLen, result := .none, payLen := 0#8, tmo := false, slvOk := false,
          funOk := false, cntOk := false }) ∧
    (s.busy = true ∨ s.rxLen.toNat = 256 → exec (.rxpush b) s = .next { s with cmdErr := true })

/-- R111: PARSE of fewer than five bytes is TooShort, whatever the bytes, and `CRC` is not written. While busy PARSE is
refused. -/
def Obligations.ParseOfFewerThanFiveBytesIsTooShort : Prop :=
  ∀ s : State,
    (s.busy = false → s.rxLen.toNat < 5 → exec .parse s = .next { s with
      result := .error .tooShort, payLen := 0#8, slvOk := false, funOk := false, cntOk := false }) ∧
    (s.busy = true → exec .parse s = .next { s with cmdErr := true })

/-- R112: with at least five bytes, PARSE is CrcMismatch exactly when the trailing two bytes, low byte first, are not the
CRC of the bytes before them. The clause that this is so exactly when the CRC of all the bytes is not 0 is the spec's own
inference (R112: "[derived: from 40_crc16 R101 (b)]"; "the rule is the comparison"). -/
def Obligations.ParseComparesTheTrailingCrc : Prop :=
  ∀ (s : State) (n : Nat), s.busy = false → s.rxLen.toNat = n + 5 →
    ∃ t, exec .parse s = .next t ∧ t.crc = crc16 (s.rxBytes (n + 3)) ∧
      (t.result = .error .crcMismatch ↔ pair (s.rxByte (n + 4)) (s.rxByte (n + 3)) ≠ crc16 (s.rxBytes (n + 3))) ∧
      (t.result = .error .crcMismatch ↔ crc16 (s.rxBytes (n + 5)) ≠ 0#16) ∧
      (t.result = .error .crcMismatch → t = { s with
        result := .error .crcMismatch, crc := t.crc, payLen := 0#8, slvOk := false, funOk := false, cntOk := false })

/-- R113: with the CRC right, PARSE is LengthMismatch unless byte 2 is the length less five, and on success the payload is
the bytes from index 3 up to the CRC. -/
def Obligations.ParseComparesTheByteCount : Prop :=
  ∀ (s : State) (n : Nat), s.busy = false → s.rxLen.toNat = n + 5 →
    pair (s.rxByte (n + 4)) (s.rxByte (n + 3)) = crc16 (s.rxBytes (n + 3)) →
    ((s.rxByte 2).toNat ≠ n → exec .parse s = .next { s with
      result := .error .lengthMismatch, crc := crc16 (s.rxBytes (n + 3)), payLen := 0#8, slvOk := false,
      funOk := false, cntOk := false }) ∧
    ((s.rxByte 2).toNat = n → ∃ t, exec .parse s = .next t ∧ t.result = .ok ∧ t.payLen.toNat = n ∧
      t.payload = (s.rxBytes (n + 3)).drop 3 ∧
      t = { s with
        result := .ok, crc := crc16 (s.rxBytes (n + 3)), payLen := s.rxByte 2, slvOk := t.slvOk, funOk := t.funOk,
        cntOk := t.cntOk })

/-- R114: the match flags after PARSE: all 0 when the verdict is not `R_OK` or nothing was ever built, else the three
comparisons with `TXBUF`, the count without truncation. -/
def Obligations.MatchFlagsCompareWithTheBuiltRequest : Prop :=
  ∀ s : State, s.busy = false →
    ∃ t, exec .parse s = .next t ∧
      (t.result ≠ .ok ∨ s.txLen ≠ 8#4 → t.slvOk = false ∧ t.funOk = false ∧ t.cntOk = false) ∧
      (t.result = .ok ∧ s.txLen = 8#4 →
        (t.slvOk = true ↔ s.rxByte 0 = s.txByte 0) ∧
        (t.funOk = true ↔ s.rxByte 1 = s.txByte 1) ∧
        (t.cntOk = true ↔ (s.rxByte 2).toNat = 2 * (pair (s.txByte 4) (s.txByte 5)).toNat))

/-- R119, its expansion: PARSEBYTES leaves its bytes in `RXBUF`, their number in `RXLEN`, the verdict PARSE gives on them,
and returns `RESULT` and `PAYLEN`. -/
def Obligations.ParsebytesLoadsItsBytesAndValidatesThem : Prop :=
  ∀ (s : State) (bytes : List Byte), s.busy = false → bytes.length ≤ 256 →
    ∃ t v, exec (.parsebytes bytes) s = .next t ∧
      t.rxBytes bytes.length = bytes ∧ (∀ a, bytes.length ≤ a → t.rxBuf.read a = s.rxBuf.read a) ∧
      exec .parse { s with rxBuf := t.rxBuf, rxLen := BitVec.ofNat 9 bytes.length, tmo := false } = .next v ∧
      t = { v with
        trace := s.trace ++ [.reg 2#4 (v.result.code.setWidth 32), .reg 13#4 (v.payLen.setWidth 32)] }

/-- R119, the round trip: PARSEBYTES of a well-formed frame recovers exactly its payload, for every slave id, function code
and payload of at most 251 bytes, whatever the registers and `TXBUF` hold. R119 states it for even lengths up to 250; odd
lengths and 251 are its own inference ("[derived: from rule R109]"). That the lines run in one step and that the reads are
added to a trace is the model's choice (log 9, 10). -/
def Obligations.ParsebytesRecoversThePayload : Prop :=
  ∀ (s : State) (id fn : Byte) (p : List Byte), s.busy = false → p.length ≤ 251 →
    ∃ t, exec (.parsebytes (withCrc (id :: fn :: BitVec.ofNat 8 p.length :: p))) s = .next t ∧
      t.result = .ok ∧ t.payLen.toNat = p.length ∧ t.payload = p ∧
      t.crc = crc16 (id :: fn :: BitVec.ofNat 8 p.length :: p) ∧
      (∀ a, p.length + 5 ≤ a → t.rxBuf.read a = s.rxBuf.read a) ∧
      t = { s with
        rxBuf := t.rxBuf, rxLen := BitVec.ofNat 9 (p.length + 5), result := .ok, payLen := t.payLen, crc := t.crc
        tmo := false, slvOk := t.slvOk, funOk := t.funOk, cntOk := t.cntOk
        trace := s.trace ++ [.reg 2#4 1#32, .reg 13#4 (BitVec.ofNat 32 p.length)] }

/-- R101 (d), R115: any single bit flipped in a well-formed frame, the CRC bytes and the byte count included, makes
PARSEBYTES fail with CrcMismatch. -/
def Obligations.SingleBitFlipFailsWithCrcMismatch : Prop :=
  ∀ (s : State) (id fn : Byte) (p frame : List Byte) (i k : Nat), s.busy = false → p.length ≤ 251 →
    frame = withCrc (id :: fn :: BitVec.ofNat 8 p.length :: p) → i < frame.length → k < 8 →
    ∃ t, exec (.parsebytes (frame.set i (frame.getD i 0#8 ^^^ (1#8 <<< k)))) s = .next t ∧
      t.result = .error .crcMismatch

/-- R106: REQ leaves the request of its operands in `TXBUF`; the operands are what the register writes keep of them. With a
count above 125 the registers are written and the BUILD is refused (R104). -/
def Obligations.ReqBuildsTheRequestOfItsOperands : Prop :=
  ∀ (s : State) (a f b c : Word32), s.busy = false →
    ((c.setWidth 16).toNat ≤ 125 →
      ∃ t, exec (.req a f b c) s = .next t ∧
        t.txBytes 8 = requestFrame (a.setWidth 8) (f.setWidth 8) (b.setWidth 16) (c.setWidth 16) ∧
        t.crc = crc16 (t.txBytes 6) ∧ t.expLen.toNat = 5 + 2 * (c.setWidth 16).toNat ∧
        (∀ x, 8 ≤ x → t.txBuf.read x = s.txBuf.read x) ∧
        t = { s with
          slave := a.setWidth 8, func := f.setWidth 8, start := b.setWidth 16, count := c.setWidth 16
          txBuf := t.txBuf, crc := t.crc, txLen := 8#4, expLen := t.expLen }) ∧
    (125 < (c.setWidth 16).toNat → exec (.req a f b c) s = .next { s with
      slave := a.setWidth 8, func := f.setWidth 8, start := b.setWidth 16, count := c.setWidth 16, cmdErr := true })

/-! ### The transceiver: commands -/

/-- R123, R134, R135: the command word of OPEN; it is accepted in `Disconnected` alone and goes to `Connecting` with no
result and `BUSY` set. One step ends it: it succeeds, latching `BAUD`, when `BAUD ≠ 0` and `LINK_OK = 1`, and fails with
`E_FATAL` otherwise. The model's choices in it: a failed OPEN leaves `PAYLEN` and the match flags as they were (R124 c,
R135 against R198, log 15), OPEN writes `RESULT` (against R219, log 30), and the host's half of the session begins with
its acceptance (log 27). -/
def Obligations.OpenConnectsInOneStep : Prop :=
  ∀ (s : State) (ms : Nat),
    (∀ arg : Byte, decode (.cmd (pair arg 0x07#8)) = .ok .openSession) ∧
    (s.busy = false → s.sess = .disconnected →
      exec .openSession s = .next { s with
        sess := .connecting, result := .none, phase := .opening, retries := 0, lastSuccess := none }) ∧
    (s.busy = true ∨ s.sess ≠ .disconnected → exec .openSession s = .next { s with cmdErr := true }) ∧
    (s.phase = .opening → s.baud ≠ 0#32 → step (s.eventNext (.tick ms)) =
      .next { s with aBaud := s.baud, sess := .idle, result := .ok, phase := .idle }) ∧
    (s.phase = .opening → s.baud = 0#32 → step (s.eventNext (.tick ms)) =
      .next { s with sess := .disconnected, result := .error .fatal, phase := .idle }) ∧
    (s.phase = .opening → step (s.eventNext .linkDown) =
      .next { s with sess := .disconnected, result := .error .fatal, phase := .idle })

/-- R125, R130: the command words of CLOSE and CLRERR. CLOSE goes to `Disconnected` from any session state, CLRERR clears
`CMDERR` and `FERR`, and each changes nothing else of the block; refused while busy. That the host's half of the session
is torn down with the acceptance of CLOSE is the model's form of R176 (log 27). -/
def Obligations.CloseAndClrerrWriteTheirFieldsAlone : Prop :=
  ∀ s : State,
    (∀ arg : Byte, decode (.cmd (pair arg 0x08#8)) = .ok .closeSession ∧
      decode (.cmd (pair arg 0x0A#8)) = .ok .clrerr) ∧
    (s.busy = false → exec .closeSession s = .next { s with
      sess := .disconnected, retries := 0, lastSuccess := none }) ∧
    (s.busy = true → exec .closeSession s = .next { s with cmdErr := true }) ∧
    (s.busy = false → exec .clrerr s = .next { s with cmdErr := false, fErr := false }) ∧
    (s.busy = true → exec .clrerr s = .next { s with cmdErr := true })

/-- R127, the acceptance: the command word of XFER; it is accepted with `SESS = Idle` and `TXLEN = 8`, clears the verdict
and the receive count and enters `P_TX`; refused otherwise and while busy. -/
def Obligations.XferStartsSending : Prop :=
  ∀ s : State,
    (∀ arg : Byte, decode (.cmd (pair arg 0x09#8)) = .ok .xfer) ∧
    (s.busy = false → s.sess = .idle → s.txLen = 8#4 →
      exec .xfer s = .next { s with
        sess := .awaitingResponse, result := .none, payLen := 0#8, tmo := false, slvOk := false, funOk := false,
        cntOk := false, rxLen := 0#9, txIdx := 0#4, phase := .tx }) ∧
    (s.busy = true ∨ s.sess ≠ .idle ∨ s.txLen ≠ 8#4 → exec .xfer s = .next { s with cmdErr := true })

/-! ### The transceiver: small steps -/

/-- R136, R137, R138, R198: the steps of `P_TX`. That a fatal error also stops the timer is the model's choice (log 22). -/
def Obligations.SendingSteps : Prop :=
  ∀ (s : State) (ms : Nat), s.phase = .tx →
    (s.txIdx.toNat < 8 → step (s.eventNext (.tick ms)) =
      .next { s with hist := s.hist ++ [.txByte (s.txByte s.txIdx.toNat)], txIdx := s.txIdx + 1#4 }) ∧
    (s.txIdx.toNat = 8 → step (s.eventNext (.tick ms)) =
      .next { s with hist := s.hist ++ [.log .tx (s.txBytes 8)], phase := .rx, timer := some 0 }) ∧
    step (s.eventNext .linkDown) = .next { s with
      hist := s.hist ++ [.log .tx (s.txBytes s.txIdx.toNat), .fatal], result := .error .fatal,
      payLen := 0#8, slvOk := false, funOk := false, cntOk := false, sess := .disconnected, phase := .idle, timer := none }

/-- R140, R141, R142: how a receive phase ends. A complete read goes before the timeout, a dead link before both; below
`EXPLEN` the read times out when the timer has reached the live `TIMEOUT`, and otherwise only time passes. `PAYLEN` and the
match flags are 0 after an error (R198). The model's choices in it: the timer counts whole milliseconds, so many at each
`tick` (log 5), and stops at each end of the phase (log 22). -/
def Obligations.ReceivePhaseEnds : Prop :=
  ∀ (s : State) (ms : Nat), s.phase = .rx →
    (s.rxLen = s.expLen → step (s.eventNext (.tick ms)) = .next { s with
      hist := s.hist ++ [.log .rx (s.rxBytes s.rxLen.toNat)], phase := .check, timer := none }) ∧
    (s.rxLen.toNat < s.expLen.toNat → s.timeout.toNat ≤ s.timer.getD 0 + ms →
      step (s.eventNext (.tick ms)) = .next { s with
        hist := s.hist ++ [.log .rx (s.rxBytes s.rxLen.toNat), .timeout], tmo := true, result := .error .timeout,
        payLen := 0#8, slvOk := false, funOk := false, cntOk := false, sess := .idle, phase := .idle, timer := none }) ∧
    (s.rxLen.toNat < s.expLen.toNat → s.timer.getD 0 + ms < s.timeout.toNat →
      step (s.eventNext (.tick ms)) = .next { s with timer := some (s.timer.getD 0 + ms) }) ∧
    step (s.eventNext .linkDown) = .next { s with
      hist := s.hist ++ [.log .rx (s.rxBytes s.rxLen.toNat), .fatal], result := .error .fatal,
      payLen := 0#8, slvOk := false, funOk := false, cntOk := false, sess := .disconnected, phase := .idle, timer := none }

/-- R143: the last step of a transaction gives the verdict PARSE would give on the same bytes, and returns to `Idle`
whatever it is. That `LINK_OK = 0` at this step changes nothing (`linkDown`) is the model's choice (log 14). -/
def Obligations.ValidateStepGivesTheParseVerdict : Prop :=
  ∀ (s : State) (e : Event), s.phase = .check → e = .linkDown ∨ (∃ ms, e = .tick ms) →
    ∃ t, exec .parse { s with phase := .idle, sess := .idle } = .next t ∧ step (s.eventNext e) = .next t ∧
      t.sess = .idle ∧ t.phase = .idle

/-! ### The transceiver: a whole transaction (R144) -/

/-- R144, `FatalTx(j)` and `FatalRx(s)`. -/
def Obligations.XferWithFatalError : Prop :=
  ∀ s : State, s.phase = .idle → s.sess = .idle → s.txLen = 8#4 →
    (∀ j, j ≤ 8 →
      runSteps (j + 2) ((s.scripted (List.replicate j (.tick 0) ++ [.linkDown])).hostNext (.op .xfer)) = some { s with
        result := .error .fatal, sess := .disconnected, rxLen := 0#9, tmo := false, payLen := 0#8, slvOk := false,
        funOk := false, cntOk := false, txIdx := BitVec.ofNat 4 j, timer := none
        hist := s.hist ++ (s.txBytes j).map .txByte ++ [.log .tx (s.txBytes j), .fatal] }) ∧
    ∀ bytes : List Byte, bytes.length < s.expLen.toNat → s.expLen.toNat ≤ 256 →
      ∃ t, runSteps (bytes.length + 11)
          ((s.scripted (sendScript ++ bytes.map charEvent ++ [.linkDown])).hostNext (.op .xfer)) = some t ∧
        t.rxLen.toNat = bytes.length ∧ t.rxBytes bytes.length = bytes ∧
        (∀ a, bytes.length ≤ a → t.rxBuf.read a = s.rxBuf.read a) ∧
        t = { s with
          result := .error .fatal, sess := .disconnected, rxLen := t.rxLen, rxBuf := t.rxBuf, tmo := false,
          payLen := 0#8, slvOk := false, funOk := false, cntOk := false, txIdx := 8#4, timer := none
          hist := s.hist ++ (s.txBytes 8).map .txByte ++ [.log .tx (s.txBytes 8)] ++ bytes.map .rxByte ++
            [.log .rx bytes, .fatal] }

/-- R144, `Short(s)`. -/
def Obligations.XferWithShortAnswerTimesOut : Prop :=
  ∀ (s : State) (bytes : List Byte) (ms : Nat), s.phase = .idle → s.sess = .idle → s.txLen = 8#4 →
    bytes.length < s.expLen.toNat → s.expLen.toNat ≤ 256 → s.timeout.toNat ≤ ms →
    ∃ t, runSteps (bytes.length + 11)
        ((s.scripted (sendScript ++ bytes.map charEvent ++ [.tick ms])).hostNext (.op .xfer)) = some t ∧
      t.rxLen.toNat = bytes.length ∧ t.rxBytes bytes.length = bytes ∧
      (∀ a, bytes.length ≤ a → t.rxBuf.read a = s.rxBuf.read a) ∧
      t = { s with
        result := .error .timeout, sess := .idle, rxLen := t.rxLen, rxBuf := t.rxBuf, tmo := true,
        payLen := 0#8, slvOk := false, funOk := false, cntOk := false, txIdx := 8#4, timer := none
        hist := s.hist ++ (s.txBytes 8).map .txByte ++ [.log .tx (s.txBytes 8)] ++ bytes.map .rxByte ++
          [.log .rx bytes, .timeout] }

/-- R144, `Full(s)`: the verdict is the one PARSEBYTES gives on the same bytes. -/
def Obligations.XferWithFullAnswerGivesTheParsebytesVerdict : Prop :=
  ∀ (s : State) (bytes : List Byte), s.phase = .idle → s.sess = .idle → s.txLen = 8#4 →
    bytes.length = s.expLen.toNat → s.expLen.toNat ≤ 256 →
    ∃ t p, runSteps (bytes.length + 12)
        ((s.scripted (sendScript ++ bytes.map charEvent ++ [.tick 0, .tick 0])).hostNext (.op .xfer)) = some t ∧
      exec (.parsebytes bytes) s = .next p ∧
      t.rxBytes bytes.length = bytes ∧
      (∀ a, bytes.length ≤ a → t.rxBuf.read a = s.rxBuf.read a) ∧
      t = { s with
        result := p.result, payLen := p.payLen, slvOk := p.slvOk, funOk := p.funOk, cntOk := p.cntOk, crc := p.crc
        rxLen := s.expLen, rxBuf := t.rxBuf, tmo := false, txIdx := 8#4, timer := none
        hist := s.hist ++ (s.txBytes 8).map .txByte ++ [.log .tx (s.txBytes 8)] ++ bytes.map .rxByte ++
          [.log .rx bytes] }

/-! ### The line -/

/-- R67, R80 with R136 and R137: the request frame the block is about to send goes out whole. The meaning of the row on
other states is the model's choice (log 13), here: where the receiver takes nothing and this frame is not what the block
is about to send, it leaves no trace. -/
def Obligations.RequestFramePassesOnTheLine : Prop :=
  ∀ (s : State) (a h l hh ll c cc : Byte),
    (s.phase = .tx → s.txIdx = 0#4 → s.txBytes 8 = requestBytes a h l hh ll c cc →
      exec (.rtuRequest a h l hh ll c cc) s = .next { s with
        hist := s.hist ++ [.txByte a, .txByte 3#8, .txByte h, .txByte l, .txByte hh, .txByte ll, .txByte c,
          .txByte cc, .log .tx [a, 3#8, h, l, hh, ll, c, cc]]
        txIdx := 8#4, phase := .rx, timer := some 0 }) ∧
    (s.receiving = false → s.phase ≠ .tx ∨ s.txIdx ≠ 0#4 ∨ s.txBytes 8 ≠ requestBytes a h l hh ll c cc →
      exec (.rtuRequest a h l hh ll c cc) s = .next s)

/-- R70, R71, R77, R132, R139, R64: the bytes of a frame on the line in the receive phase are stored in wire order up to
`EXPLEN`, and what is beyond is lost, whatever the bytes are: a response, a request (log 13), or no instruction's encoding
(another function code, another length). -/
def Obligations.FramesAreReceivedUpToTheExpectedLength : Prop :=
  ∀ (s : State) (kind : FrameKind) (bytes : List Byte) (k : Nat),
    s.phase = .rx → s.rxLen.toNat ≤ s.expLen.toNat → s.expLen.toNat ≤ 256 →
    k = min bytes.length (s.expLen.toNat - s.rxLen.toNat) →
    ∃ t, step (s.eventNext (.frame kind bytes)) = .next t ∧
      (∀ i : Instr, encode i = some (.frame kind bytes) → exec i s = .next t) ∧
      t.rxLen.toNat = s.rxLen.toNat + k ∧
      (∀ x, t.rxBuf.read x = if s.rxLen.toNat ≤ x ∧ x < s.rxLen.toNat + k
        then bytes[x - s.rxLen.toNat]? else s.rxBuf.read x) ∧
      t = { s with rxBuf := t.rxBuf, rxLen := t.rxLen, hist := s.hist ++ (bytes.take k).map .rxByte }

/-- R139, R81: a character delivered in `P_RX` below `EXPLEN` is stored at `RXLEN`, counted and recorded, and the timer is
not restarted; one whose stop bit is 0 is stored all the same and sets `FERR`. -/
def Obligations.CharacterIsReceived : Prop :=
  ∀ (s : State) (b : Byte), s.phase = .rx → s.rxLen.toNat < s.expLen.toNat → s.rxLen.toNat < 256 →
    ∃ t, exec (.uartChar b) s = .next t ∧ step (s.eventNext (charEvent b)) = .next t ∧
      step (s.eventNext (.char (encodeChar b &&& 0x3FE#10))) = .next { t with fErr := true } ∧
      t.rxLen.toNat = s.rxLen.toNat + 1 ∧ t.hist = s.hist ++ [.rxByte b] ∧
      (∀ a, t.rxBuf.read a = if a = s.rxLen.toNat then some b else s.rxBuf.read a) ∧
      t = { s with rxBuf := t.rxBuf, rxLen := t.rxLen, hist := t.hist }

/-- R64: what arrives on the line while the receiver takes nothing leaves no trace in the state: outside `P_RX`, and in
`P_RX` once `EXPLEN` bytes are in. The model's choices in it: that the table's rows of the line have this as their action
(log 12), that a character with a bad stop bit then leaves `FERR` alone (log 16), and that a byte between the last
expected one and the end of the read is lost (log 21). A request frame in `P_TX` is left to the statement about it.
R133, R202, R40: while the block is quiescent neither the time nor the link changes anything. -/
def Obligations.LineIsIgnoredOutsideTheReceivePhase : Prop :=
  ∀ (s : State), s.receiving = false →
    (∀ b, exec (.uartChar b) s = .next s) ∧
    (∀ a data c cc, exec (.rtuResponse a data c cc) s = .next s) ∧
    (∀ levels, step (s.eventNext (.char levels)) = .next s) ∧
    (∀ kind bytes, kind = .response ∨ s.phase ≠ .tx ∨ (∃ e, decode (.frame kind bytes) = .error e) →
      step (s.eventNext (.frame kind bytes)) = .next s) ∧
    (s.phase = .idle → (∀ ms, step (s.eventNext (.tick ms)) = .next s) ∧ step (s.eventNext .linkDown) = .next s)

/-! ### The host port -/

/-- R36: what a write of each register does while the block is quiescent; the low bits are kept, a read-only or reserved
register is refused. -/
def Obligations.RegisterWritesKeepTheLowBits : Prop :=
  ∀ (s : State) (v : Word32), s.busy = false →
    step (s.hostNext (.wr 3#4 v)) = .next { s with crc := v.setWidth 16 } ∧
    step (s.hostNext (.wr 4#4 v)) = .next { s with slave := v.setWidth 8 } ∧
    step (s.hostNext (.wr 5#4 v)) = .next { s with func := v.setWidth 8 } ∧
    step (s.hostNext (.wr 6#4 v)) = .next { s with start := v.setWidth 16 } ∧
    step (s.hostNext (.wr 7#4 v)) = .next { s with count := v.setWidth 16 } ∧
    step (s.hostNext (.wr 8#4 v)) = .next { s with baud := v } ∧
    step (s.hostNext (.wr 9#4 v)) = .next { s with timeout := v } ∧
    ∀ n : RegNum, n.toNat ∈ [1, 2, 10, 11, 12, 13, 14, 15] →
      step (s.hostNext (.wr n v)) = .next { s with cmdErr := true }

/-- R36, R53, R14, R35, R57, R88: a register read returns the register zero-extended and changes nothing of the block; `CMD`
and the reserved registers read 0, `PAYLEN` reads 0 while busy (that it is kept underneath is the model's choice, log 15);
`RESULT` reads as its code; `CRC` is unspecified in `P_CHECK`. -/
def Obligations.RegisterReadsChangeNothing : Prop :=
  ∀ (s : State) (n : RegNum) (v : Word32),
    (n, v) ∈ [(0#4, 0#32), (1#4, s.status.setWidth 32),
      (2#4, match s.result with
        | .none => 0#32 | .ok => 1#32 | .error .tooShort => 2#32 | .error .crcMismatch => 3#32
        | .error .lengthMismatch => 4#32 | .error .timeout => 5#32 | .error .fatal => 6#32),
      (3#4, s.crc.setWidth 32),
      (4#4, s.slave.setWidth 32), (5#4, s.func.setWidth 32), (6#4, s.start.setWidth 32), (7#4, s.count.setWidth 32),
      (8#4, s.baud), (9#4, s.timeout), (10#4, s.txLen.setWidth 32), (11#4, s.expLen.setWidth 32),
      (12#4, s.rxLen.setWidth 32), (13#4, if s.busy then 0#32 else s.payLen.setWidth 32), (14#4, 0#32), (15#4, 0#32)] →
    (n = 3#4 → s.phase ≠ .check) →
    step (s.hostNext (.rd n)) = .next { s with trace := s.trace ++ [.reg n v] }

/-- R48, R49, R51: a buffer byte read below the valid length returns the byte held there and changes nothing; at or beyond
it some byte, and no flag (that it is a free value and not a fault is the model's choice, log 6); an index outside the
buffer does not exist, which the model answers with a fault (log 25). -/
def Obligations.BufferReadsReturnTheBytes : Prop :=
  ∀ (s : State) (i : Nat),
    (∀ b, i < 8 → i < s.txLen.toNat → s.txBuf.read i = some b →
      step (s.hostNext (.rdbTx i)) = .next { s with trace := s.trace ++ [.tx i b] }) ∧
    (∀ b, i < 256 → i < s.rxLen.toNat → s.rxBuf.read i = some b →
      step (s.hostNext (.rdbRx i)) = .next { s with trace := s.trace ++ [.rx i b] }) ∧
    (i < 8 → s.txLen.toNat ≤ i →
      ∃ b, step (s.hostNext (.rdbTx i)) = .next { s with trace := s.trace ++ [.tx i b], draws := s.draws + 1 }) ∧
    (i < 256 → s.rxLen.toNat ≤ i →
      ∃ b, step (s.hostNext (.rdbRx i)) = .next { s with trace := s.trace ++ [.rx i b], draws := s.draws + 1 }) ∧
    (8 ≤ i → step (s.hostNext (.rdbTx i)) = .fault .noSuchBufferByte) ∧
    (256 ≤ i → step (s.hostNext (.rdbRx i)) = .fault .noSuchBufferByte)

/-- R56: while busy every command and every register write but that of `TIMEOUT` is refused and changes nothing else;
`TIMEOUT` is written; reads go on. The model's choices in the reads: a free value and no fault beyond the valid length
(log 6), a free value for `CRC` in `P_CHECK` (log 8), and the trace (log 10). -/
def Obligations.BusyRefusesAllButTimeoutAndReads : Prop :=
  ∀ s : State, s.busy = true →
    (∀ i : Instr, i.isCommand = true → exec i s = .next { s with cmdErr := true }) ∧
    (∀ (n : RegNum) (v : Word32), n ≠ 9#4 → step (s.hostNext (.wr n v)) = .next { s with cmdErr := true }) ∧
    (∀ v : Word32, step (s.hostNext (.wr 9#4 v)) = .next { s with timeout := v }) ∧
    (∀ n : RegNum, ∃ r d, step (s.hostNext (.rd n)) = .next { s with trace := s.trace ++ [r], draws := d }) ∧
    (∀ i, i < 8 → ∃ r d, step (s.hostNext (.rdbTx i)) = .next { s with trace := s.trace ++ [r], draws := d }) ∧
    (∀ i, i < 256 → ∃ r d, step (s.hostNext (.rdbRx i)) = .next { s with trace := s.trace ++ [r], draws := d })

/-- R196: the list of refused actions is complete, and a refused action sets `CMDERR` and changes nothing else. -/
def Obligations.TheListOfRefusalsIsComplete : Prop :=
  ∀ (s t : State) (l : Line), isPortAction l = true → step (s.hostNext l) = .next t →
    (actionRefused l s = true → t = { s with cmdErr := true }) ∧
    (actionRefused l s = false → s.cmdErr = false → t.cmdErr = false)

/-- R15, R17, R22, R89, R57: the fields of the `STATUS` word; `TMO` and the match flags read 0 while busy (that they are kept
underneath is the model's choice, log 15). -/
def Obligations.StatusWordHoldsTheFlags : Prop :=
  ∀ s : State,
    (s.status.extractLsb' 0 2 = match s.sess with
      | .disconnected => 0#2 | .connecting => 1#2 | .idle => 2#2 | .awaitingResponse => 3#2) ∧
    (s.status.getLsbD 2 = true ↔ s.phase ≠ .idle) ∧
    s.status.getLsbD 3 = s.cmdErr ∧ s.status.getLsbD 4 = s.fErr ∧
    (s.status.getLsbD 5 = true ↔ s.tmo = true ∧ s.phase = .idle) ∧
    (s.status.getLsbD 6 = true ↔ s.slvOk = true ∧ s.phase = .idle) ∧
    (s.status.getLsbD 7 = true ↔ s.funOk = true ∧ s.phase = .idle) ∧
    (s.status.getLsbD 8 = true ↔ s.cntOk = true ∧ s.phase = .idle) ∧
    (s.status.getLsbD 9 = true ↔ s.phase = .tx) ∧ s.status.extractLsb' 10 6 = 0#6

/-! ### The host's program -/

/-- R86: WAIT reads `STATUS`, and while `BUSY = 1` does so again: the model queues the next read for the host's next turn
(its choice, log 9). -/
def Obligations.WaitReadsStatusUntilQuiescent : Prop :=
  ∀ s : State,
    (s.busy = false → exec .wait s = .next { s with trace := s.trace ++ [.reg 1#4 (s.status.setWidth 32)] }) ∧
    (s.busy = true → exec .wait s = .next { s with
      trace := s.trace ++ [.reg 1#4 (s.status.setWidth 32)], prog := .op .wait :: s.prog })

/-- The model's choice (log 9): a pseudo-operation issued while the block is busy waits at the head of the program as the
lines of R87 and R186 it stands for. -/
def Obligations.PseudoOperationsIssuedWhileBusyWait : Prop :=
  ∀ (s : State) (bytes : List Byte) (a f b c : Word32) (limit : Nat), s.busy = true →
    exec (.crc16 bytes) s = .next { s with
      prog := .op .crcinit :: bytes.map (fun x => Line.op (.crcbyte x)) ++ [.rd 3#4] ++ s.prog } ∧
    exec (.req a f b c) s = .next { s with
      prog := [.wr 4#4 a, .wr 5#4 f, .wr 6#4 b, .wr 7#4 c, .op .build] ++ s.prog } ∧
    exec (.parsebytes bytes) s = .next { s with
      prog := .op .rxclr :: bytes.map (fun x => Line.op (.rxpush x)) ++ [.op .parse, .rd 2#4, .rd 13#4] ++ s.prog } ∧
    exec (.transact a f b c) s = .next { s with
      prog := [.wr 4#4 a, .wr 5#4 f, .wr 6#4 b, .wr 7#4 c, .op .build, .op .xfer, .op .wait, .rd 2#4, .rd 1#4,
        .rd 13#4] ++ s.prog } ∧
    exec (.poll a f b c limit) s = .next { s with
      retries := 0
      prog := [.wr 4#4 a, .wr 5#4 f, .wr 6#4 b, .wr 7#4 c, .op .build, .op .xfer, .op .wait,
        .engine (.pollCheck b .registers limit)] ++ s.prog }

/-- R87: TRANSACT is REQ, then XFER, WAIT and the reads. In an open session with at most 125 registers it builds its request
and starts the transfer. In every other case its XFER resends the request built before, where there is one and the session
is open (R104, R129 b), and else is refused, and the flags and registers are read as they stand. Once the block is busy the
host's wait and reads are left, one turn each (the model's choice, log 9). -/
def Obligations.TransactBuildsAndStartsTheTransfer : Prop :=
  ∀ (s : State) (a f b c : Word32), s.busy = false →
    ((c.setWidth 16).toNat ≤ 125 → s.sess = .idle → ∃ t, exec (.transact a f b c) s = .next t ∧
      t.txBytes 8 = requestFrame (a.setWidth 8) (f.setWidth 8) (b.setWidth 16) (c.setWidth 16) ∧
      t.crc = crc16 (t.txBytes 6) ∧ t.expLen.toNat = 5 + 2 * (c.setWidth 16).toNat ∧
      (∀ x, 8 ≤ x → t.txBuf.read x = s.txBuf.read x) ∧
      t = { s with
        slave := a.setWidth 8, func := f.setWidth 8, start := b.setWidth 16, count := c.setWidth 16
        txBuf := t.txBuf, crc := t.crc, txLen := 8#4, expLen := t.expLen
        sess := .awaitingResponse, phase := .tx, txIdx := 0#4, rxLen := 0#9
        result := .none, payLen := 0#8, tmo := false, slvOk := false, funOk := false, cntOk := false
        prog := [.op .wait, .rd 2#4, .rd 1#4, .rd 13#4] ++ s.prog }) ∧
    ∃ r t, exec (.req a f b c) s = .next r ∧ exec (.transact a f b c) s = .next t ∧
      (s.sess = .idle → r.txLen = 8#4 → t = { r with
        sess := .awaitingResponse, phase := .tx, txIdx := 0#4, rxLen := 0#9
        result := .none, payLen := 0#8, tmo := false, slvOk := false, funOk := false, cntOk := false
        prog := [.op .wait, .rd 2#4, .rd 1#4, .rd 13#4] ++ s.prog }) ∧
      (s.sess ≠ .idle ∨ r.txLen ≠ 8#4 → t = { r with
        cmdErr := true
        trace := s.trace ++ [.reg 1#4 (t.status.setWidth 32), .reg 2#4 (s.result.code.setWidth 32),
          .reg 1#4 (t.status.setWidth 32), .reg 13#4 (s.payLen.setWidth 32)] })

/-- R186, its first lines: POLL is REQ, then its first attempt with the retry counter at 0. In an open session with at most
125 registers it builds its request and starts the transfer. In every other case its XFER resends the request built before,
where there is one and the session is open (R104, R129 b), and else is refused, and the decision follows at once on the
result as it stands. Once the block is busy the wait and the decision are left for the host's next turns (the model's
choice, log 9), and the answer is decoded register by register (log 11). -/
def Obligations.PollBuildsAndStartsItsFirstAttempt : Prop :=
  ∀ (s : State) (a f b c : Word32) (limit : Nat), s.busy = false →
    ((c.setWidth 16).toNat ≤ 125 → s.sess = .idle → ∃ t, exec (.poll a f b c limit) s = .next t ∧
      t.txBytes 8 = requestFrame (a.setWidth 8) (f.setWidth 8) (b.setWidth 16) (c.setWidth 16) ∧
      t.crc = crc16 (t.txBytes 6) ∧ t.expLen.toNat = 5 + 2 * (c.setWidth 16).toNat ∧
      (∀ x, 8 ≤ x → t.txBuf.read x = s.txBuf.read x) ∧
      t = { s with
        slave := a.setWidth 8, func := f.setWidth 8, start := b.setWidth 16, count := c.setWidth 16
        txBuf := t.txBuf, crc := t.crc, txLen := 8#4, expLen := t.expLen
        sess := .awaitingResponse, phase := .tx, txIdx := 0#4, rxLen := 0#9
        result := .none, payLen := 0#8, tmo := false, slvOk := false, funOk := false, cntOk := false
        retries := 0, prog := [.op .wait, .engine (.pollCheck b .registers limit)] ++ s.prog }) ∧
    ∃ r t, exec (.req a f b c) s = .next r ∧ exec (.poll a f b c limit) s = .next t ∧
      (s.sess = .idle → r.txLen = 8#4 → t = { r with
        sess := .awaitingResponse, phase := .tx, txIdx := 0#4, rxLen := 0#9
        result := .none, payLen := 0#8, tmo := false, slvOk := false, funOk := false, cntOk := false
        retries := 0, prog := [.op .wait, .engine (.pollCheck b .registers limit)] ++ s.prog }) ∧
      (s.sess ≠ .idle ∨ r.txLen ≠ 8#4 → ∃ u : State,
        step (u.hostNext (.engine (.pollCheck b .registers limit))) = .next t ∧
        u = { r with cmdErr := true, retries := 0, trace := s.trace ++ [.reg 1#4 (u.status.setWidth 32)] })

/-! ### The poll engine -/

/-- R186, R174, R175, R177: the decision of POLL after an attempt. A fatal error emits connection-lost and stops the engine
with its session; an accepted answer is decoded and its values emitted; otherwise, while a retry is left, the same transfer
again after the backoff, and the item's error when none is left. After a stop request (R181) the event is the same, nothing
is retried, and the host leaves. The form of the events, the stamp and the alarms kept for the report are the model's
choice (log 11, 27, 31). -/
def Obligations.PollDecisionFollowsTheResult : Prop :=
  ∀ (s : State) (start : Word32) (shape : Shape) (left : Nat) (values : List Reading),
    values = readings (start.setWidth 16).toNat shape s.payload →
    (s.result = .error .fatal → step (s.hostNext (.engine (.pollCheck start shape left))) = .next { s with
      hostEvents := s.hostEvents ++ [.connectionLost], retries := 0, lastSuccess := none
      worker := { s.worker with stopping := false }
      prog := if s.worker.stopping then [.wr 9#4 s.worker.params.readTimeout] else [] }) ∧
    (s.worker.stopping = false → s.result = .ok ∧ s.slvOk = true ∧ s.funOk = true ∧ s.cntOk = true →
      step (s.hostNext (.engine (.pollCheck start shape left))) = .next { s with
        hostEvents := s.hostEvents ++ [.value start values]
        lastSuccess := some (Config.timestamp s.draws), draws := s.draws + 1
        worker := { s.worker with alarms := s.worker.alarms ++ values.filterMap alarmOf } }) ∧
    (s.worker.stopping = false → s.result ≠ .error .fatal →
      ¬(s.result = .ok ∧ s.slvOk = true ∧ s.funOk = true ∧ s.cntOk = true) →
      step (s.hostNext (.engine (.pollCheck start shape 0))) =
        .next { s with hostEvents := s.hostEvents ++ [.itemError start s.result] } ∧
      step (s.hostNext (.engine (.pollCheck start shape (left + 1)))) = .next { s with
        retries := s.retries + 1
        prog := [.engine (.pause s.worker.params.backoff), .op .xfer, .op .wait,
          .engine (.pollCheck start shape left)] ++ s.prog }) ∧
    (s.worker.stopping = true → s.result ≠ .error .fatal →
      step (s.hostNext (.engine (.pollCheck start shape left))) = .next { s with
        hostEvents := s.hostEvents ++ [if s.accepted then .value start values else .itemError start s.result]
        lastSuccess := if s.accepted then some (Config.timestamp s.draws) else s.lastSuccess
        draws := if s.accepted then s.draws + 1 else s.draws
        worker := { s.worker with
          stopping := false
          alarms := if s.accepted then s.worker.alarms ++ values.filterMap alarmOf else s.worker.alarms }
        prog := [.op .wait, .op .closeSession, .wr 9#4 s.worker.params.readTimeout] })

/-- R186, R174, R175: after `n` silent attempts, `n` at most the retry limit, an accepted answer gives exactly one value
event after exactly `n` retries, and the host moves on. -/
def Obligations.PollRetriesUntilTheAnswerIsAccepted : Prop :=
  ∀ (s p : State) (bytes : List Byte) (start : Word32) (shape : Shape) (n limit ms : Nat),
    s.phase = .idle → s.sess = .idle → s.txLen = 8#4 → 0 < s.expLen.toNat → s.expLen.toNat ≤ 256 →
    bytes.length = s.expLen.toNat → s.timeout.toNat ≤ ms → n ≤ limit → s.worker.stopping = false →
    exec (.parsebytes bytes) s = .next p → p.accepted = true →
    ∃ t, runSteps (14 * n + bytes.length + 14)
        { s with
          retries := 0, prog := attemptLines start shape limit ++ s.prog
          env := (List.replicate n (silentAttempt ms)).flatten ++ answeredAttempt bytes ++ s.env } = some t ∧
      t.hostEvents = s.hostEvents ++ [.value start (readings (start.setWidth 16).toNat shape p.payload)] ∧
      t.retries = n ∧ t.lastSuccess.isSome = true ∧ t.prog = s.prog ∧ t.env = s.env ∧ t.phase = .idle ∧
      t.sess = .idle ∧ t.result = .ok

/-- R186, R175: when all `limit + 1` attempts are silent the host emits the item's error after exactly `limit` retries, and
moves on with the session open. -/
def Obligations.PollGivesUpAfterTheRetryLimit : Prop :=
  ∀ (s : State) (start : Word32) (shape : Shape) (limit ms : Nat),
    s.phase = .idle → s.sess = .idle → s.txLen = 8#4 → 0 < s.expLen.toNat → s.expLen.toNat ≤ 256 →
    s.timeout.toNat ≤ ms → s.worker.stopping = false →
    ∃ t, runSteps (14 * limit + 13)
        { s with
          retries := 0, prog := attemptLines start shape limit ++ s.prog
          env := (List.replicate limit (silentAttempt ms)).flatten ++
            (.host :: sendScript ++ [.tick ms, .host, .host]) ++ s.env } = some t ∧
      t.hostEvents = s.hostEvents ++ [.itemError start (.error .timeout)] ∧ t.retries = limit ∧ t.prog = s.prog ∧
      t.env = s.env ∧ t.phase = .idle ∧ t.sess = .idle ∧ t.result = .error .timeout

/-- R182, R173, R179, R178: the selected module index is swapped by one answer and read when an item begins; a sweep is the
time block, the battery block, the cells and the alarms, the report, the sleep, and the next sweep. A stop (R181) is
observed at each of these and at the end of the program, and the host then waits, closes and restores its timeout; with
none requested the end of the program changes nothing (R215). R184: the report counts and lists the alarms kept that are
not normal (log 29). R172: after OPEN the first sweep begins, or the failure is reported and the engine stops. The
engine's lines are the model's form of these rules (log 11, 31). -/
def Obligations.EngineRunsItsScheduleUntilStopped : Prop :=
  ∀ (s : State) (item : PollItem) (m : Fin 32) (ms : Nat),
    step (s.eventNext (.selectModule m)) = .next { s with worker := { s.worker with selected := m } } ∧
    (s.worker.stopping = false →
      (∃ start, start = BitVec.ofNat 32 (item.start + s.worker.selected.val * item.moduleStride) ∧
        step (s.hostNext (.engine (.item item))) = .next { s with
          retries := 0
          prog := [.wr 4#4 s.worker.params.slave, .wr 5#4 3#32, .wr 6#4 start, .wr 7#4 (BitVec.ofNat 32 item.count),
            .op .build, .op .xfer, .op .wait,
            .engine (.pollCheck start (.fields item.fields) s.worker.params.retryLimit)] ++ s.prog }) ∧
      step (s.hostNext (.engine .nextSweep)) = .next { s with
        worker := { s.worker with alarms := [] }
        prog := s.worker.schedule.time.map (fun i => Line.engine (.item i)) ++
          s.worker.schedule.battery.map (fun i => Line.engine (.item i)) ++
          s.worker.schedule.cells.map (fun i => Line.engine (.item i)) ++
          s.worker.schedule.alarms.map (fun i => Line.engine (.item i)) ++
          [.engine .alarmReport, .engine (.pause s.worker.params.interCycle), .engine .nextSweep] ++ s.prog } ∧
      step (s.hostNext (.engine (.pause ms))) = .next s ∧
      (s.prog = [] → step (s.eventNext .host) = .next s)) ∧
    step (s.hostNext (.engine .alarmReport)) = .next { s with
      hostEvents := s.hostEvents ++ [.alarmSweep (s.worker.alarms.filter fun a => a.rawValue ≠ 0).length
        (s.worker.alarms.filter fun a => a.rawValue ≠ 0)] } ∧
    (s.sess = .idle → step (s.hostNext (.engine .connectCheck)) = .next { s with
      prog := .engine .nextSweep :: s.prog }) ∧
    (s.sess ≠ .idle → step (s.hostNext (.engine .connectCheck)) = .next { s with
      hostEvents := s.hostEvents ++ [.connectFailed], retries := 0, lastSuccess := none
      worker := { s.worker with stopping := false }
      prog := if s.worker.stopping then [.wr 9#4 s.worker.params.readTimeout] else [] }) ∧
    (s.worker.stopping = true → s.prog = [] → step (s.eventNext .host) = .next { s with
      worker := { s.worker with stopping := false }
      prog := [.op .wait, .op .closeSession, .wr 9#4 s.worker.params.readTimeout] }) ∧
    (s.worker.stopping = true → ∀ e ∈ [EngineStep.item item, .nextSweep, .pause ms],
      step (s.hostNext (.engine e)) = .next { s with
        worker := { s.worker with stopping := false }
        prog := [.op .wait, .op .closeSession, .wr 9#4 s.worker.params.readTimeout] })

/-- R181, R146, R228: a stop requested while a read is blocked for as long as the shortened timeout ends the read at the
sequencer's next step, and the host leaves: the item's error, no retry, the session closed, `TIMEOUT` restored, nothing
more to issue. -/
def Obligations.StopEndsABlockedRead : Prop :=
  ∀ (s : State) (start : Word32) (shape : Shape) (left ms : Nat) (rest : List Line),
    s.phase = .rx → s.rxLen.toNat < s.expLen.toNat → s.worker.stopping = false →
    s.worker.params.stopTimeout.toNat ≤ s.timer.getD 0 + ms →
    s.prog = .op .wait :: .engine (.pollCheck start shape left) :: rest →
    ∃ t, runSteps 8 (s.scripted [.stopRequest, .host, .tick ms, .host, .host, .host, .host, .host]) = some t ∧
      t.hostEvents = s.hostEvents ++ [.itemError start (.error .timeout)] ∧ t.sess = .disconnected ∧ t.phase = .idle ∧
      t.timeout = s.worker.params.readTimeout ∧ t.prog = [] ∧ t.env = s.env ∧ t.worker.stopping = false ∧
      t.retries = 0

/-! ### Encoding, and the step -/

/-- Decoding an encoded well-formed instruction gives it back (30_encoding R67 to R85): the rows that have bits. -/
def Obligations.DecodeOfEncodeIsTheInstruction : Prop :=
  ∀ (i : Instr) (c : Code), i.wellFormed = true → encode i = some c → decode c = .ok i

/-- The other direction: what decodes is well formed, and for a frame and a character its encoding is the code decoded; for
a command word it has the same operation, and the same word where the operand is read (R84). -/
def Obligations.EveryDecodedCodeIsAnEncoding : Prop :=
  (∀ (kind : FrameKind) (bytes : List Byte) (i : Instr), decode (.frame kind bytes) = .ok i →
    i.wellFormed = true ∧ encode i = some (.frame kind bytes)) ∧
  (∀ (levels : BitVec 10) (i : Instr), decode (.char levels) = .ok i → encode i = some (.char levels)) ∧
  (∀ (w : Word16) (i : Instr), decode (.cmd w) = .ok i → ∃ w', encode i = some (.cmd w') ∧ loByte w' = loByte w ∧
    (loByte w = 0x02#8 ∨ loByte w = 0x05#8 → w' = w))

/-- R85: a command word is rejected exactly when its operation is 0x00 or 0x0B to 0xFF, whatever its operand byte, and a
write of it is refused and changes nothing else. -/
def Obligations.ReservedOperationCodesAreRefused : Prop :=
  ∀ (w : Word16) (s : State),
    ((∃ e, decode (.cmd w) = .error e) ↔ (loByte w = 0x00#8 ∨ 0x0B ≤ (loByte w).toNat)) ∧
    (loByte w = 0x00#8 ∨ 0x0B ≤ (loByte w).toNat →
      step (s.hostNext (.wr 0#4 (w.setWidth 32))) = .next { s with cmdErr := true })

/-- The words of 30_encoding R83, R67, R70 and R79, written out bit by bit from them, decode to their instructions. -/
def Obligations.WrittenOutCodesDecode : Prop :=
  decode (.cmd 0b0000000000000001#16) = .ok .crcinit ∧
  decode (.cmd 0b0010000100000010#16) = .ok (.crcbyte 0x21#8) ∧
  decode (.cmd 0b0101010100000011#16) = .ok .build ∧
  decode (.cmd 0b0010000100000101#16) = .ok (.rxpush 0x21#8) ∧
  decode (.cmd 0b0000000000001001#16) = .ok .xfer ∧
  decode (.cmd 0b0000000000001010#16) = .ok .clrerr ∧
  decode (.frame .request [0x21#8, 0x03#8, 0x20#8, 0x00#8, 0x00#8, 0x06#8, 0xC9#8, 0x68#8]) =
    .ok (.rtuRequest 0x21#8 0x20#8 0x00#8 0x00#8 0x06#8 0xC9#8 0x68#8) ∧
  decode (.frame .response [0x21#8, 0x03#8, 0x02#8, 0x00#8, 0x57#8, 0x78#8, 0x7D#8]) =
    .ok (.rtuResponse 0x21#8 [0x00#8, 0x57#8] 0x78#8 0x7D#8) ∧
  decode (.char 0b0100001001#10) = .ok (.uartChar 0x21#8)

/-- A step runs the decoded instruction: a command word at the host's turn, a mnemonic line, a frame and a character on the
line, and the placing of a table word. The line or answer is taken off first; nothing else is around `exec`. -/
def Obligations.StepRunsTheDecodedInstruction : Prop :=
  ∀ (s : State) (i : Instr),
    (∀ v : Word32, decode (.cmd (v.setWidth 16)) = .ok i → step (s.hostNext (.wr 0#4 v)) = exec i s) ∧
    (i.isWire = false → step (s.hostNext (.op i)) = exec i s) ∧
    (∀ kind bytes, decode (.frame kind bytes) = .ok i → step (s.eventNext (.frame kind bytes)) = exec i s) ∧
    (∀ levels, decode (.char levels) = .ok i → step (s.eventNext (.char levels)) = exec i s) ∧
    (∀ nbits w, decodeTableWord nbits w = some i → step (s.withFetchWord nbits w) = exec i s)

/-! ### Reset -/

/-- R45: the values after reset. -/
def Obligations.ResetLeavesTheStatedValues : Prop :=
  let r := State.reset
  r.status = 0x0000#16 ∧ r.sess = .disconnected ∧ r.busy = false ∧ r.cmdErr = false ∧ r.fErr = false ∧
  r.tmo = false ∧ r.slvOk = false ∧ r.funOk = false ∧ r.cntOk = false ∧ r.txEn = false ∧ r.result = .none ∧
  r.crc = 0xFFFF#16 ∧ r.slave = 0x00#8 ∧ r.func = 0x03#8 ∧ r.start = 0x0000#16 ∧ r.count = 0x0000#16 ∧
  r.baud = 0#32 ∧ r.timeout = 1000#32 ∧ r.txLen = 0#4 ∧ r.expLen = 0#9 ∧ r.rxLen = 0#9 ∧ r.payLen = 0#8 ∧
  r.phase = .idle ∧ r.txIdx = 0#4 ∧ r.aBaud = 0#32 ∧ r.timer = none ∧ r.hist = []

/-- R213, R214: reset may be taken in any state and gives the block its reset values. What stays of the host and of the
model's own fields is the model's choice (log 17). -/
def Obligations.ResetFromAnyState : Prop :=
  ∀ s : State, step (s.eventNext .reset) = .next { State.reset with
    retries := s.retries, lastSuccess := s.lastSuccess, worker := s.worker, hostEvents := s.hostEvents, prog := s.prog
    env := s.env, draws := s.draws, trace := s.trace }

/-! ### The whole machine -/

/-- No instruction but those that store changes a byte of a buffer; BUILD, REQ, TRANSACT and POLL change `TXBUF[0..8)`
alone, RXPUSH and PARSEBYTES `RXBUF` alone. The storing addresses are those of the other statements. -/
def Obligations.OnlyStoringInstructionsChangeTheBuffers : Prop :=
  ∀ (s t : State) (i : Instr), exec i s = .next t →
    (i ∈ [.crcinit, .rxclr, .parse, .openSession, .closeSession, .xfer, .clrerr, .wait] ∨
        (∃ b, i = .crcbyte b) ∨ (∃ bytes, i = .crc16 bytes) → s.sameBuffers t) ∧
    (i = .build ∨ (∃ a f b c, i = .req a f b c) ∨ (∃ a f b c, i = .transact a f b c) ∨
        (∃ a f b c r, i = .poll a f b c r) →
      (∀ x, t.rxBuf.read x = s.rxBuf.read x) ∧ ∀ x, 8 ≤ x → t.txBuf.read x = s.txBuf.read x) ∧
    ((∃ b, i = .rxpush b) ∨ (∃ bytes, i = .parsebytes bytes) → ∀ x, t.txBuf.read x = s.txBuf.read x)

/-- Every step keeps the canonical form of both buffers, in every state. -/
def Obligations.StepKeepsTheBuffersCanonical : Prop :=
  ∀ s t : State, s.memWf = true → step s = .next t → t.memWf = true

/-- Every step keeps the invariant of the machine: session and phase agree (R16, R37), the timer runs in `P_RX` alone
(R40), `TXBUF` holds nothing or a whole request (R31, R32, R41), the received bytes are held (R42), no result or verdict
shows while busy (R57). -/
def Obligations.StepKeepsTheInvariant : Prop :=
  ∀ s t : State, s.Inv → step s = .next t → t.Inv

/-- The invariant holds after reset. -/
def Obligations.ResetMeetsTheInvariant : Prop := State.reset.Inv

/-- R131: no step moves the session but along the transitions of the table. -/
def Obligations.SessionMovesOnlyAlongItsTransitions : Prop :=
  ∀ s t : State, s.Inv → step s = .next t → s.sess = t.sess ∨ (s.sess, t.sess) ∈ sessionTransitions

/-- R18, R19: `CMDERR` and `FERR`, once set, stay through every instruction but CLRERR, and through every answer of the
environment but a reset; at the host's turn whatever its next line is, but CLRERR by its mnemonic or written to `CMD`. -/
def Obligations.StickyFlagsStayUntilClrerrOrReset : Prop :=
  ∀ s t : State,
    (∀ i : Instr, i ≠ .clrerr → exec i s = .next t →
      (s.cmdErr = true → t.cmdErr = true) ∧ (s.fErr = true → t.fErr = true)) ∧
    (∀ e : Event, e ≠ .reset →
      (e = .host → s.prog.head? ≠ some (.op .clrerr) ∧
        ∀ v : Word32, s.prog.head? = some (.wr 0#4 v) → loByte (v.setWidth 16) ≠ 0x0A#8) →
      step (s.eventNext e) = .next t →
      (s.cmdErr = true → t.cmdErr = true) ∧ (s.fErr = true → t.fErr = true))

/-- R62, R57, R56: while an operation runs, no step but a reset changes the built request (`TXBUF`, `TXLEN`, `EXPLEN`) or one
of `SLAVE`, `FUNC`, `START`, `COUNT` and `BAUD`, nor `CRC` but for the validation in `P_CHECK`. -/
def Obligations.RequestAndRegistersAreFrozenWhileBusy : Prop :=
  ∀ (s t : State) (e : Event), s.busy = true → e ≠ .reset → step (s.eventNext e) = .next t →
    t.txBuf = s.txBuf ∧ t.txLen = s.txLen ∧ t.expLen = s.expLen ∧ t.slave = s.slave ∧ t.func = s.func ∧
    t.start = s.start ∧ t.count = s.count ∧ t.baud = s.baud ∧ (s.phase ≠ .check → t.crc = s.crc)

/-- R148: in a fair run every operation ends: the block is quiescent again and again. Of the two premises of a fair run,
that the timeout step is not postponed forever while it stays enabled is the weak fairness R148 tells a model to assume;
that the sequencer of a block that stays busy gets a turn is the model's own (log 5), because its environment decides who
moves (log 4). -/
def Obligations.EveryOperationEndsInAFairRun : Prop :=
  ∀ f : Nat → State, FairRun f → (f 0).Inv → ∀ n, ∃ m, n ≤ m ∧ (f m).busy = false

/-- R43, R147: the history only grows; a byte is put on the line in `P_TX` alone and taken from it in `P_RX` below
`EXPLEN` alone. -/
def Obligations.BytesMoveOnlyInTheirPhase : Prop :=
  ∀ (s t : State) (e : Event), e ≠ .reset → step (s.eventNext e) = .next t →
    ∃ grown, t.hist = s.hist ++ grown ∧
      (∀ b, .txByte b ∈ grown → s.phase = .tx) ∧
      (∀ b, .rxByte b ∈ grown → s.phase = .rx ∧ s.rxLen.toNat < s.expLen.toNat)

/-! ### The host's software -/

/-- R151 to R156, R158: the integers of the typed decoder, big-endian and hi-word first, the signed ones as two's
complement; a string is the payload's characters in order with the trailing NULs and whitespace removed: what is removed
from the end is all of that kind, and the string does not end in one; and decoding fails only on insufficient length. -/
def Obligations.TypedDecoderReadsValues : Prop :=
  (∀ (a b c d : Byte) (rest : List Byte),
    decodeUint16 (a :: b :: rest) = .ok (256 * a.toNat + b.toNat) ∧
    decodeInt16 (a :: b :: rest) =
      .ok (if 256 * a.toNat + b.toNat < 32768 then ((256 * a.toNat + b.toNat : Nat) : Int)
        else ((256 * a.toNat + b.toNat : Nat) : Int) - 65536) ∧
    decodeUint32 (a :: b :: c :: d :: rest) =
      .ok ((256 * a.toNat + b.toNat) * 65536 + (256 * c.toNat + d.toNat)) ∧
    decodeInt32 (a :: b :: c :: d :: rest) =
      .ok (if (256 * a.toNat + b.toNat) * 65536 + (256 * c.toNat + d.toNat) < 2147483648
        then (((256 * a.toNat + b.toNat) * 65536 + (256 * c.toNat + d.toNat) : Nat) : Int)
        else (((256 * a.toNat + b.toNat) * 65536 + (256 * c.toNat + d.toNat) : Nat) : Int) - 4294967296)) ∧
  (∀ (regs : Nat) (p : List Byte), 2 * regs ≤ p.length →
    ∃ chars tail, decodeAscii regs p = .ok chars ∧ chars ++ tail = p.take (2 * regs) ∧
      (∀ b ∈ tail, b ∈ [0x00#8, 0x20#8, 0x09#8, 0x0A#8, 0x0B#8, 0x0C#8, 0x0D#8]) ∧
      (∀ h : chars ≠ [], chars.getLast h ∉ [0x00#8, 0x20#8, 0x09#8, 0x0A#8, 0x0B#8, 0x0C#8, 0x0D#8])) ∧
  (∀ p : List Byte,
    decodeValue .uint16 p = (decodeUint16 p).map .uint16 ∧ decodeValue .int16 p = (decodeInt16 p).map .int16 ∧
    decodeValue .uint32 p = (decodeUint32 p).map .uint32 ∧ decodeValue .int32 p = (decodeInt32 p).map .int32 ∧
    ∀ regs, decodeValue (.asciiString regs) p = (decodeAscii regs p).map .asciiString) ∧
  ∀ (t : ValueType) (p : List Byte),
    decodeValue t p = .error .insufficientLength ↔ p.length < 2 * registersOf t

/-- R160, R161, R163 to R169, R157: the addresses of the catalog's families within the index ranges and none outside; the
types and scales of their values; the values of an answer, each decoded at its offset; the severity of an alarm, derived
from its raw value. -/
def Obligations.CatalogHoldsAddressesTypesAndScales : Prop :=
  ∀ (b : CatalogBases) (alarms : List AlarmSpot) (m c stride : Nat),
    (1 ≤ m → m ≤ 32 → 1 ≤ c → c ≤ 15 →
      familyAddress (voltageFamily b) m 1 = some (b.moduleBase + (m - 1) * 0x40) ∧
      familyAddress (currentFamily b) m 1 = some (b.moduleBase + (m - 1) * 0x40 + 2) ∧
      familyAddress (socFamily b) m 1 = some (b.moduleBase + (m - 1) * 0x40 + 8) ∧
      familyAddress (barcodeFamily b) m 1 = some (b.barcodeBase + (m - 1) * 0x20) ∧
      familyAddress (cellTempFamily b) m c = some (b.cellTempBase + (m - 1) * 0x40 + (c - 1)) ∧
      familyAddress (cellVoltFamily b) m c = some (b.cellVoltBase + (m - 1) * 0x40 + (c - 1)) ∧
      familyAddress (alarmFamily b alarms) m 1 = some (b.alarmBase + (m - 1) * 0x40) ∧
      familyAddress (lithiumFamily b stride) m 1 = some (b.lithiumBase + (m - 1) * stride)) ∧
    familyAddress (timeFamily b) 1 1 = some b.timeBase ∧
    (∀ f ∈ [voltageFamily b, currentFamily b, socFamily b, barcodeFamily b, cellTempFamily b, cellVoltFamily b,
        alarmFamily b alarms, lithiumFamily b stride], m = 0 ∨ 32 < m ∨ c = 0 ∨ 15 < c → familyAddress f m c = none) ∧
    (timeFamily b).fields.map Field.key = [.year, .month, .day, .hour, .minute, .second] ∧
    (timeFamily b).fields.map Field.offset = [0, 1, 2, 3, 4, 5] ∧
    (∀ x ∈ (timeFamily b).fields, x.type = .uint16 ∧ x.scale = .unit) ∧
    [voltageFamily b, currentFamily b, socFamily b, barcodeFamily b, cellTempFamily b, cellVoltFamily b].map
        (fun f => f.fields.map fun x => (x.type, x.scale)) =
      [[(.uint32, .tenth)], [(.int32, .tenth)], [(.uint16, .unit)], [(.asciiString 15, .unit)], [(.int16, .tenth)],
       [(.uint16, .tenth)]] ∧
    (∀ raw : Int, scaled .unit raw = raw ∧ scaled .tenth raw = raw / 10) ∧
    (∀ (start : Nat) (fs : List Field) (p : List Byte), readings start (.fields fs) p = fs.map fun x =>
      ⟨x.key, start + x.offset, x.scale, decodeValue x.type (p.drop (2 * x.offset))⟩) ∧
    ∀ e : AlarmEntry,
      (severityOf e = .normal ↔ e.rawValue = 0) ∧
      (e.name = .lithiumAbnormal → (e.rawValue = 1 → severityOf e = .fault) ∧
        (e.rawValue = 2 → severityOf e = .protection) ∧ (e.rawValue = 3 → severityOf e = .commFail)) ∧
      (e.name ≠ .lithiumAbnormal → e.rawValue ≠ 0 → severityOf e = .fault)

/-- R170, R167, R171: families that pass the startup check have all their registers within sixteen bits and no register in
two of them; the one catalog of a variant is its families, and is built exactly when they pass the check and a module has
at most 13 alarms, each once; and the engine starts exactly when the catalog is built. That a wrong list of alarms is
refused at startup is the model's choice (log 31). -/
def Obligations.CheckedCatalogHasNoOverlap : Prop :=
  (∀ fs : List RegisterFamily, checkCatalog [] fs = .ok () →
    (∀ f ∈ fs, ∀ a ∈ familyRegisters f, a ≤ 0xFFFF) ∧
    fs.Pairwise fun f g => ∀ a, a ∈ familyRegisters f → a ∉ familyRegisters g) ∧
  (∀ (v : DeviceVariant) (fs : List RegisterFamily),
    catalog v = .ok fs ↔ fs = families v ∧ checkCatalog [] (families v) = .ok () ∧ v.alarms.length ≤ 13 ∧
      (v.alarms.map AlarmSpot.name).Nodup) ∧
  ∀ (s : State) (v : DeviceVariant) (p : HostParams) (schedule : Schedule),
    (∃ fs, catalog v = .ok fs) ↔ s.startEngine v p schedule = .ok { s with
      worker := { s.worker with params := p, schedule := schedule, stopping := false, alarms := [] }
      prog := [.wr 8#4 p.baud, .wr 9#4 p.readTimeout, .op .openSession, .op .wait, .engine .connectCheck] }
end

