-- ==== Sys2Proof/Laws/State.lean ====
section
/-! SUPPORT. One lemma per field per update of State, each true by rfl, so that no proof unfolds a record update. -/

namespace Sys2Proof.Machine

variable (s : State)

@[simp] theorem State.refuse_sess : (s.refuse).sess = s.sess := rfl
@[simp] theorem State.refuse_cmdErr : (s.refuse).cmdErr = true := rfl
@[simp] theorem State.refuse_fErr : (s.refuse).fErr = s.fErr := rfl
@[simp] theorem State.refuse_tmo : (s.refuse).tmo = s.tmo := rfl
@[simp] theorem State.refuse_slvOk : (s.refuse).slvOk = s.slvOk := rfl
@[simp] theorem State.refuse_funOk : (s.refuse).funOk = s.funOk := rfl
@[simp] theorem State.refuse_cntOk : (s.refuse).cntOk = s.cntOk := rfl
@[simp] theorem State.refuse_result : (s.refuse).result = s.result := rfl
@[simp] theorem State.refuse_crc : (s.refuse).crc = s.crc := rfl
@[simp] theorem State.refuse_slave : (s.refuse).slave = s.slave := rfl
@[simp] theorem State.refuse_func : (s.refuse).func = s.func := rfl
@[simp] theorem State.refuse_start : (s.refuse).start = s.start := rfl
@[simp] theorem State.refuse_count : (s.refuse).count = s.count := rfl
@[simp] theorem State.refuse_baud : (s.refuse).baud = s.baud := rfl
@[simp] theorem State.refuse_timeout : (s.refuse).timeout = s.timeout := rfl
@[simp] theorem State.refuse_txLen : (s.refuse).txLen = s.txLen := rfl
@[simp] theorem State.refuse_expLen : (s.refuse).expLen = s.expLen := rfl
@[simp] theorem State.refuse_rxLen : (s.refuse).rxLen = s.rxLen := rfl
@[simp] theorem State.refuse_payLen : (s.refuse).payLen = s.payLen := rfl
@[simp] theorem State.refuse_phase : (s.refuse).phase = s.phase := rfl
@[simp] theorem State.refuse_txIdx : (s.refuse).txIdx = s.txIdx := rfl
@[simp] theorem State.refuse_aBaud : (s.refuse).aBaud = s.aBaud := rfl
@[simp] theorem State.refuse_timer : (s.refuse).timer = s.timer := rfl
@[simp] theorem State.refuse_txBuf : (s.refuse).txBuf = s.txBuf := rfl
@[simp] theorem State.refuse_rxBuf : (s.refuse).rxBuf = s.rxBuf := rfl
@[simp] theorem State.refuse_hist : (s.refuse).hist = s.hist := rfl
@[simp] theorem State.refuse_retries : (s.refuse).retries = s.retries := rfl
@[simp] theorem State.refuse_lastSuccess : (s.refuse).lastSuccess = s.lastSuccess := rfl
@[simp] theorem State.refuse_worker : (s.refuse).worker = s.worker := rfl
@[simp] theorem State.refuse_hostEvents : (s.refuse).hostEvents = s.hostEvents := rfl
@[simp] theorem State.refuse_prog : (s.refuse).prog = s.prog := rfl
@[simp] theorem State.refuse_env : (s.refuse).env = s.env := rfl
@[simp] theorem State.refuse_draws : (s.refuse).draws = s.draws := rfl
@[simp] theorem State.refuse_trace : (s.refuse).trace = s.trace := rfl

@[simp] theorem State.emit_sess (e : HistEvent) : (s.emit e).sess = s.sess := rfl
@[simp] theorem State.emit_cmdErr (e : HistEvent) : (s.emit e).cmdErr = s.cmdErr := rfl
@[simp] theorem State.emit_fErr (e : HistEvent) : (s.emit e).fErr = s.fErr := rfl
@[simp] theorem State.emit_tmo (e : HistEvent) : (s.emit e).tmo = s.tmo := rfl
@[simp] theorem State.emit_slvOk (e : HistEvent) : (s.emit e).slvOk = s.slvOk := rfl
@[simp] theorem State.emit_funOk (e : HistEvent) : (s.emit e).funOk = s.funOk := rfl
@[simp] theorem State.emit_cntOk (e : HistEvent) : (s.emit e).cntOk = s.cntOk := rfl
@[simp] theorem State.emit_result (e : HistEvent) : (s.emit e).result = s.result := rfl
@[simp] theorem State.emit_crc (e : HistEvent) : (s.emit e).crc = s.crc := rfl
@[simp] theorem State.emit_slave (e : HistEvent) : (s.emit e).slave = s.slave := rfl
@[simp] theorem State.emit_func (e : HistEvent) : (s.emit e).func = s.func := rfl
@[simp] theorem State.emit_start (e : HistEvent) : (s.emit e).start = s.start := rfl
@[simp] theorem State.emit_count (e : HistEvent) : (s.emit e).count = s.count := rfl
@[simp] theorem State.emit_baud (e : HistEvent) : (s.emit e).baud = s.baud := rfl
@[simp] theorem State.emit_timeout (e : HistEvent) : (s.emit e).timeout = s.timeout := rfl
@[simp] theorem State.emit_txLen (e : HistEvent) : (s.emit e).txLen = s.txLen := rfl
@[simp] theorem State.emit_expLen (e : HistEvent) : (s.emit e).expLen = s.expLen := rfl
@[simp] theorem State.emit_rxLen (e : HistEvent) : (s.emit e).rxLen = s.rxLen := rfl
@[simp] theorem State.emit_payLen (e : HistEvent) : (s.emit e).payLen = s.payLen := rfl
@[simp] theorem State.emit_phase (e : HistEvent) : (s.emit e).phase = s.phase := rfl
@[simp] theorem State.emit_txIdx (e : HistEvent) : (s.emit e).txIdx = s.txIdx := rfl
@[simp] theorem State.emit_aBaud (e : HistEvent) : (s.emit e).aBaud = s.aBaud := rfl
@[simp] theorem State.emit_timer (e : HistEvent) : (s.emit e).timer = s.timer := rfl
@[simp] theorem State.emit_txBuf (e : HistEvent) : (s.emit e).txBuf = s.txBuf := rfl
@[simp] theorem State.emit_rxBuf (e : HistEvent) : (s.emit e).rxBuf = s.rxBuf := rfl
@[simp] theorem State.emit_hist (e : HistEvent) : (s.emit e).hist = s.hist ++ [e] := rfl
@[simp] theorem State.emit_retries (e : HistEvent) : (s.emit e).retries = s.retries := rfl
@[simp] theorem State.emit_lastSuccess (e : HistEvent) : (s.emit e).lastSuccess = s.lastSuccess := rfl
@[simp] theorem State.emit_worker (e : HistEvent) : (s.emit e).worker = s.worker := rfl
@[simp] theorem State.emit_hostEvents (e : HistEvent) : (s.emit e).hostEvents = s.hostEvents := rfl
@[simp] theorem State.emit_prog (e : HistEvent) : (s.emit e).prog = s.prog := rfl
@[simp] theorem State.emit_env (e : HistEvent) : (s.emit e).env = s.env := rfl
@[simp] theorem State.emit_draws (e : HistEvent) : (s.emit e).draws = s.draws := rfl
@[simp] theorem State.emit_trace (e : HistEvent) : (s.emit e).trace = s.trace := rfl

@[simp] theorem State.logRead_sess (r : PortRead) : (s.logRead r).sess = s.sess := rfl
@[simp] theorem State.logRead_cmdErr (r : PortRead) : (s.logRead r).cmdErr = s.cmdErr := rfl
@[simp] theorem State.logRead_fErr (r : PortRead) : (s.logRead r).fErr = s.fErr := rfl
@[simp] theorem State.logRead_tmo (r : PortRead) : (s.logRead r).tmo = s.tmo := rfl
@[simp] theorem State.logRead_slvOk (r : PortRead) : (s.logRead r).slvOk = s.slvOk := rfl
@[simp] theorem State.logRead_funOk (r : PortRead) : (s.logRead r).funOk = s.funOk := rfl
@[simp] theorem State.logRead_cntOk (r : PortRead) : (s.logRead r).cntOk = s.cntOk := rfl
@[simp] theorem State.logRead_result (r : PortRead) : (s.logRead r).result = s.result := rfl
@[simp] theorem State.logRead_crc (r : PortRead) : (s.logRead r).crc = s.crc := rfl
@[simp] theorem State.logRead_slave (r : PortRead) : (s.logRead r).slave = s.slave := rfl
@[simp] theorem State.logRead_func (r : PortRead) : (s.logRead r).func = s.func := rfl
@[simp] theorem State.logRead_start (r : PortRead) : (s.logRead r).start = s.start := rfl
@[simp] theorem State.logRead_count (r : PortRead) : (s.logRead r).count = s.count := rfl
@[simp] theorem State.logRead_baud (r : PortRead) : (s.logRead r).baud = s.baud := rfl
@[simp] theorem State.logRead_timeout (r : PortRead) : (s.logRead r).timeout = s.timeout := rfl
@[simp] theorem State.logRead_txLen (r : PortRead) : (s.logRead r).txLen = s.txLen := rfl
@[simp] theorem State.logRead_expLen (r : PortRead) : (s.logRead r).expLen = s.expLen := rfl
@[simp] theorem State.logRead_rxLen (r : PortRead) : (s.logRead r).rxLen = s.rxLen := rfl
@[simp] theorem State.logRead_payLen (r : PortRead) : (s.logRead r).payLen = s.payLen := rfl
@[simp] theorem State.logRead_phase (r : PortRead) : (s.logRead r).phase = s.phase := rfl
@[simp] theorem State.logRead_txIdx (r : PortRead) : (s.logRead r).txIdx = s.txIdx := rfl
@[simp] theorem State.logRead_aBaud (r : PortRead) : (s.logRead r).aBaud = s.aBaud := rfl
@[simp] theorem State.logRead_timer (r : PortRead) : (s.logRead r).timer = s.timer := rfl
@[simp] theorem State.logRead_txBuf (r : PortRead) : (s.logRead r).txBuf = s.txBuf := rfl
@[simp] theorem State.logRead_rxBuf (r : PortRead) : (s.logRead r).rxBuf = s.rxBuf := rfl
@[simp] theorem State.logRead_hist (r : PortRead) : (s.logRead r).hist = s.hist := rfl
@[simp] theorem State.logRead_retries (r : PortRead) : (s.logRead r).retries = s.retries := rfl
@[simp] theorem State.logRead_lastSuccess (r : PortRead) : (s.logRead r).lastSuccess = s.lastSuccess := rfl
@[simp] theorem State.logRead_worker (r : PortRead) : (s.logRead r).worker = s.worker := rfl
@[simp] theorem State.logRead_hostEvents (r : PortRead) : (s.logRead r).hostEvents = s.hostEvents := rfl
@[simp] theorem State.logRead_prog (r : PortRead) : (s.logRead r).prog = s.prog := rfl
@[simp] theorem State.logRead_env (r : PortRead) : (s.logRead r).env = s.env := rfl
@[simp] theorem State.logRead_draws (r : PortRead) : (s.logRead r).draws = s.draws := rfl
@[simp] theorem State.logRead_trace (r : PortRead) : (s.logRead r).trace = s.trace ++ [r] := rfl

@[simp] theorem State.drawn_sess : (s.drawn).sess = s.sess := rfl
@[simp] theorem State.drawn_cmdErr : (s.drawn).cmdErr = s.cmdErr := rfl
@[simp] theorem State.drawn_fErr : (s.drawn).fErr = s.fErr := rfl
@[simp] theorem State.drawn_tmo : (s.drawn).tmo = s.tmo := rfl
@[simp] theorem State.drawn_slvOk : (s.drawn).slvOk = s.slvOk := rfl
@[simp] theorem State.drawn_funOk : (s.drawn).funOk = s.funOk := rfl
@[simp] theorem State.drawn_cntOk : (s.drawn).cntOk = s.cntOk := rfl
@[simp] theorem State.drawn_result : (s.drawn).result = s.result := rfl
@[simp] theorem State.drawn_crc : (s.drawn).crc = s.crc := rfl
@[simp] theorem State.drawn_slave : (s.drawn).slave = s.slave := rfl
@[simp] theorem State.drawn_func : (s.drawn).func = s.func := rfl
@[simp] theorem State.drawn_start : (s.drawn).start = s.start := rfl
@[simp] theorem State.drawn_count : (s.drawn).count = s.count := rfl
@[simp] theorem State.drawn_baud : (s.drawn).baud = s.baud := rfl
@[simp] theorem State.drawn_timeout : (s.drawn).timeout = s.timeout := rfl
@[simp] theorem State.drawn_txLen : (s.drawn).txLen = s.txLen := rfl
@[simp] theorem State.drawn_expLen : (s.drawn).expLen = s.expLen := rfl
@[simp] theorem State.drawn_rxLen : (s.drawn).rxLen = s.rxLen := rfl
@[simp] theorem State.drawn_payLen : (s.drawn).payLen = s.payLen := rfl
@[simp] theorem State.drawn_phase : (s.drawn).phase = s.phase := rfl
@[simp] theorem State.drawn_txIdx : (s.drawn).txIdx = s.txIdx := rfl
@[simp] theorem State.drawn_aBaud : (s.drawn).aBaud = s.aBaud := rfl
@[simp] theorem State.drawn_timer : (s.drawn).timer = s.timer := rfl
@[simp] theorem State.drawn_txBuf : (s.drawn).txBuf = s.txBuf := rfl
@[simp] theorem State.drawn_rxBuf : (s.drawn).rxBuf = s.rxBuf := rfl
@[simp] theorem State.drawn_hist : (s.drawn).hist = s.hist := rfl
@[simp] theorem State.drawn_retries : (s.drawn).retries = s.retries := rfl
@[simp] theorem State.drawn_lastSuccess : (s.drawn).lastSuccess = s.lastSuccess := rfl
@[simp] theorem State.drawn_worker : (s.drawn).worker = s.worker := rfl
@[simp] theorem State.drawn_hostEvents : (s.drawn).hostEvents = s.hostEvents := rfl
@[simp] theorem State.drawn_prog : (s.drawn).prog = s.prog := rfl
@[simp] theorem State.drawn_env : (s.drawn).env = s.env := rfl
@[simp] theorem State.drawn_draws : (s.drawn).draws = s.draws + 1 := rfl
@[simp] theorem State.drawn_trace : (s.drawn).trace = s.trace := rfl

@[simp] theorem State.queue_sess (ls : List Line) : (s.queue ls).sess = s.sess := rfl
@[simp] theorem State.queue_cmdErr (ls : List Line) : (s.queue ls).cmdErr = s.cmdErr := rfl
@[simp] theorem State.queue_fErr (ls : List Line) : (s.queue ls).fErr = s.fErr := rfl
@[simp] theorem State.queue_tmo (ls : List Line) : (s.queue ls).tmo = s.tmo := rfl
@[simp] theorem State.queue_slvOk (ls : List Line) : (s.queue ls).slvOk = s.slvOk := rfl
@[simp] theorem State.queue_funOk (ls : List Line) : (s.queue ls).funOk = s.funOk := rfl
@[simp] theorem State.queue_cntOk (ls : List Line) : (s.queue ls).cntOk = s.cntOk := rfl
@[simp] theorem State.queue_result (ls : List Line) : (s.queue ls).result = s.result := rfl
@[simp] theorem State.queue_crc (ls : List Line) : (s.queue ls).crc = s.crc := rfl
@[simp] theorem State.queue_slave (ls : List Line) : (s.queue ls).slave = s.slave := rfl
@[simp] theorem State.queue_func (ls : List Line) : (s.queue ls).func = s.func := rfl
@[simp] theorem State.queue_start (ls : List Line) : (s.queue ls).start = s.start := rfl
@[simp] theorem State.queue_count (ls : List Line) : (s.queue ls).count = s.count := rfl
@[simp] theorem State.queue_baud (ls : List Line) : (s.queue ls).baud = s.baud := rfl
@[simp] theorem State.queue_timeout (ls : List Line) : (s.queue ls).timeout = s.timeout := rfl
@[simp] theorem State.queue_txLen (ls : List Line) : (s.queue ls).txLen = s.txLen := rfl
@[simp] theorem State.queue_expLen (ls : List Line) : (s.queue ls).expLen = s.expLen := rfl
@[simp] theorem State.queue_rxLen (ls : List Line) : (s.queue ls).rxLen = s.rxLen := rfl
@[simp] theorem State.queue_payLen (ls : List Line) : (s.queue ls).payLen = s.payLen := rfl
@[simp] theorem State.queue_phase (ls : List Line) : (s.queue ls).phase = s.phase := rfl
@[simp] theorem State.queue_txIdx (ls : List Line) : (s.queue ls).txIdx = s.txIdx := rfl
@[simp] theorem State.queue_aBaud (ls : List Line) : (s.queue ls).aBaud = s.aBaud := rfl
@[simp] theorem State.queue_timer (ls : List Line) : (s.queue ls).timer = s.timer := rfl
@[simp] theorem State.queue_txBuf (ls : List Line) : (s.queue ls).txBuf = s.txBuf := rfl
@[simp] theorem State.queue_rxBuf (ls : List Line) : (s.queue ls).rxBuf = s.rxBuf := rfl
@[simp] theorem State.queue_hist (ls : List Line) : (s.queue ls).hist = s.hist := rfl
@[simp] theorem State.queue_retries (ls : List Line) : (s.queue ls).retries = s.retries := rfl
@[simp] theorem State.queue_lastSuccess (ls : List Line) : (s.queue ls).lastSuccess = s.lastSuccess := rfl
@[simp] theorem State.queue_worker (ls : List Line) : (s.queue ls).worker = s.worker := rfl
@[simp] theorem State.queue_hostEvents (ls : List Line) : (s.queue ls).hostEvents = s.hostEvents := rfl
@[simp] theorem State.queue_prog (ls : List Line) : (s.queue ls).prog = ls ++ s.prog := rfl
@[simp] theorem State.queue_env (ls : List Line) : (s.queue ls).env = s.env := rfl
@[simp] theorem State.queue_draws (ls : List Line) : (s.queue ls).draws = s.draws := rfl
@[simp] theorem State.queue_trace (ls : List Line) : (s.queue ls).trace = s.trace := rfl

@[simp] theorem State.tell_sess (e : HostEvent) : (s.tell e).sess = s.sess := rfl
@[simp] theorem State.tell_cmdErr (e : HostEvent) : (s.tell e).cmdErr = s.cmdErr := rfl
@[simp] theorem State.tell_fErr (e : HostEvent) : (s.tell e).fErr = s.fErr := rfl
@[simp] theorem State.tell_tmo (e : HostEvent) : (s.tell e).tmo = s.tmo := rfl
@[simp] theorem State.tell_slvOk (e : HostEvent) : (s.tell e).slvOk = s.slvOk := rfl
@[simp] theorem State.tell_funOk (e : HostEvent) : (s.tell e).funOk = s.funOk := rfl
@[simp] theorem State.tell_cntOk (e : HostEvent) : (s.tell e).cntOk = s.cntOk := rfl
@[simp] theorem State.tell_result (e : HostEvent) : (s.tell e).result = s.result := rfl
@[simp] theorem State.tell_crc (e : HostEvent) : (s.tell e).crc = s.crc := rfl
@[simp] theorem State.tell_slave (e : HostEvent) : (s.tell e).slave = s.slave := rfl
@[simp] theorem State.tell_func (e : HostEvent) : (s.tell e).func = s.func := rfl
@[simp] theorem State.tell_start (e : HostEvent) : (s.tell e).start = s.start := rfl
@[simp] theorem State.tell_count (e : HostEvent) : (s.tell e).count = s.count := rfl
@[simp] theorem State.tell_baud (e : HostEvent) : (s.tell e).baud = s.baud := rfl
@[simp] theorem State.tell_timeout (e : HostEvent) : (s.tell e).timeout = s.timeout := rfl
@[simp] theorem State.tell_txLen (e : HostEvent) : (s.tell e).txLen = s.txLen := rfl
@[simp] theorem State.tell_expLen (e : HostEvent) : (s.tell e).expLen = s.expLen := rfl
@[simp] theorem State.tell_rxLen (e : HostEvent) : (s.tell e).rxLen = s.rxLen := rfl
@[simp] theorem State.tell_payLen (e : HostEvent) : (s.tell e).payLen = s.payLen := rfl
@[simp] theorem State.tell_phase (e : HostEvent) : (s.tell e).phase = s.phase := rfl
@[simp] theorem State.tell_txIdx (e : HostEvent) : (s.tell e).txIdx = s.txIdx := rfl
@[simp] theorem State.tell_aBaud (e : HostEvent) : (s.tell e).aBaud = s.aBaud := rfl
@[simp] theorem State.tell_timer (e : HostEvent) : (s.tell e).timer = s.timer := rfl
@[simp] theorem State.tell_txBuf (e : HostEvent) : (s.tell e).txBuf = s.txBuf := rfl
@[simp] theorem State.tell_rxBuf (e : HostEvent) : (s.tell e).rxBuf = s.rxBuf := rfl
@[simp] theorem State.tell_hist (e : HostEvent) : (s.tell e).hist = s.hist := rfl
@[simp] theorem State.tell_retries (e : HostEvent) : (s.tell e).retries = s.retries := rfl
@[simp] theorem State.tell_lastSuccess (e : HostEvent) : (s.tell e).lastSuccess = s.lastSuccess := rfl
@[simp] theorem State.tell_worker (e : HostEvent) : (s.tell e).worker = s.worker := rfl
@[simp] theorem State.tell_hostEvents (e : HostEvent) : (s.tell e).hostEvents = s.hostEvents ++ [e] := rfl
@[simp] theorem State.tell_prog (e : HostEvent) : (s.tell e).prog = s.prog := rfl
@[simp] theorem State.tell_env (e : HostEvent) : (s.tell e).env = s.env := rfl
@[simp] theorem State.tell_draws (e : HostEvent) : (s.tell e).draws = s.draws := rfl
@[simp] theorem State.tell_trace (e : HostEvent) : (s.tell e).trace = s.trace := rfl

@[simp] theorem State.clearVerdict_sess : (s.clearVerdict).sess = s.sess := rfl
@[simp] theorem State.clearVerdict_cmdErr : (s.clearVerdict).cmdErr = s.cmdErr := rfl
@[simp] theorem State.clearVerdict_fErr : (s.clearVerdict).fErr = s.fErr := rfl
@[simp] theorem State.clearVerdict_tmo : (s.clearVerdict).tmo = false := rfl
@[simp] theorem State.clearVerdict_slvOk : (s.clearVerdict).slvOk = false := rfl
@[simp] theorem State.clearVerdict_funOk : (s.clearVerdict).funOk = false := rfl
@[simp] theorem State.clearVerdict_cntOk : (s.clearVerdict).cntOk = false := rfl
@[simp] theorem State.clearVerdict_result : (s.clearVerdict).result = .none := rfl
@[simp] theorem State.clearVerdict_crc : (s.clearVerdict).crc = s.crc := rfl
@[simp] theorem State.clearVerdict_slave : (s.clearVerdict).slave = s.slave := rfl
@[simp] theorem State.clearVerdict_func : (s.clearVerdict).func = s.func := rfl
@[simp] theorem State.clearVerdict_start : (s.clearVerdict).start = s.start := rfl
@[simp] theorem State.clearVerdict_count : (s.clearVerdict).count = s.count := rfl
@[simp] theorem State.clearVerdict_baud : (s.clearVerdict).baud = s.baud := rfl
@[simp] theorem State.clearVerdict_timeout : (s.clearVerdict).timeout = s.timeout := rfl
@[simp] theorem State.clearVerdict_txLen : (s.clearVerdict).txLen = s.txLen := rfl
@[simp] theorem State.clearVerdict_expLen : (s.clearVerdict).expLen = s.expLen := rfl
@[simp] theorem State.clearVerdict_rxLen : (s.clearVerdict).rxLen = s.rxLen := rfl
@[simp] theorem State.clearVerdict_payLen : (s.clearVerdict).payLen = 0#8 := rfl
@[simp] theorem State.clearVerdict_phase : (s.clearVerdict).phase = s.phase := rfl
@[simp] theorem State.clearVerdict_txIdx : (s.clearVerdict).txIdx = s.txIdx := rfl
@[simp] theorem State.clearVerdict_aBaud : (s.clearVerdict).aBaud = s.aBaud := rfl
@[simp] theorem State.clearVerdict_timer : (s.clearVerdict).timer = s.timer := rfl
@[simp] theorem State.clearVerdict_txBuf : (s.clearVerdict).txBuf = s.txBuf := rfl
@[simp] theorem State.clearVerdict_rxBuf : (s.clearVerdict).rxBuf = s.rxBuf := rfl
@[simp] theorem State.clearVerdict_hist : (s.clearVerdict).hist = s.hist := rfl
@[simp] theorem State.clearVerdict_retries : (s.clearVerdict).retries = s.retries := rfl
@[simp] theorem State.clearVerdict_lastSuccess : (s.clearVerdict).lastSuccess = s.lastSuccess := rfl
@[simp] theorem State.clearVerdict_worker : (s.clearVerdict).worker = s.worker := rfl
@[simp] theorem State.clearVerdict_hostEvents : (s.clearVerdict).hostEvents = s.hostEvents := rfl
@[simp] theorem State.clearVerdict_prog : (s.clearVerdict).prog = s.prog := rfl
@[simp] theorem State.clearVerdict_env : (s.clearVerdict).env = s.env := rfl
@[simp] theorem State.clearVerdict_draws : (s.clearVerdict).draws = s.draws := rfl
@[simp] theorem State.clearVerdict_trace : (s.clearVerdict).trace = s.trace := rfl

@[simp] theorem State.freshSession_sess : (s.freshSession).sess = s.sess := rfl
@[simp] theorem State.freshSession_cmdErr : (s.freshSession).cmdErr = s.cmdErr := rfl
@[simp] theorem State.freshSession_fErr : (s.freshSession).fErr = s.fErr := rfl
@[simp] theorem State.freshSession_tmo : (s.freshSession).tmo = s.tmo := rfl
@[simp] theorem State.freshSession_slvOk : (s.freshSession).slvOk = s.slvOk := rfl
@[simp] theorem State.freshSession_funOk : (s.freshSession).funOk = s.funOk := rfl
@[simp] theorem State.freshSession_cntOk : (s.freshSession).cntOk = s.cntOk := rfl
@[simp] theorem State.freshSession_result : (s.freshSession).result = s.result := rfl
@[simp] theorem State.freshSession_crc : (s.freshSession).crc = s.crc := rfl
@[simp] theorem State.freshSession_slave : (s.freshSession).slave = s.slave := rfl
@[simp] theorem State.freshSession_func : (s.freshSession).func = s.func := rfl
@[simp] theorem State.freshSession_start : (s.freshSession).start = s.start := rfl
@[simp] theorem State.freshSession_count : (s.freshSession).count = s.count := rfl
@[simp] theorem State.freshSession_baud : (s.freshSession).baud = s.baud := rfl
@[simp] theorem State.freshSession_timeout : (s.freshSession).timeout = s.timeout := rfl
@[simp] theorem State.freshSession_txLen : (s.freshSession).txLen = s.txLen := rfl
@[simp] theorem State.freshSession_expLen : (s.freshSession).expLen = s.expLen := rfl
@[simp] theorem State.freshSession_rxLen : (s.freshSession).rxLen = s.rxLen := rfl
@[simp] theorem State.freshSession_payLen : (s.freshSession).payLen = s.payLen := rfl
@[simp] theorem State.freshSession_phase : (s.freshSession).phase = s.phase := rfl
@[simp] theorem State.freshSession_txIdx : (s.freshSession).txIdx = s.txIdx := rfl
@[simp] theorem State.freshSession_aBaud : (s.freshSession).aBaud = s.aBaud := rfl
@[simp] theorem State.freshSession_timer : (s.freshSession).timer = s.timer := rfl
@[simp] theorem State.freshSession_txBuf : (s.freshSession).txBuf = s.txBuf := rfl
@[simp] theorem State.freshSession_rxBuf : (s.freshSession).rxBuf = s.rxBuf := rfl
@[simp] theorem State.freshSession_hist : (s.freshSession).hist = s.hist := rfl
@[simp] theorem State.freshSession_retries : (s.freshSession).retries = 0 := rfl
@[simp] theorem State.freshSession_lastSuccess : (s.freshSession).lastSuccess = none := rfl
@[simp] theorem State.freshSession_worker : (s.freshSession).worker = s.worker := rfl
@[simp] theorem State.freshSession_hostEvents : (s.freshSession).hostEvents = s.hostEvents := rfl
@[simp] theorem State.freshSession_prog : (s.freshSession).prog = s.prog := rfl
@[simp] theorem State.freshSession_env : (s.freshSession).env = s.env := rfl
@[simp] theorem State.freshSession_draws : (s.freshSession).draws = s.draws := rfl
@[simp] theorem State.freshSession_trace : (s.freshSession).trace = s.trace := rfl

@[simp] theorem State.clearMatch_sess : (s.clearMatch).sess = s.sess := rfl
@[simp] theorem State.clearMatch_cmdErr : (s.clearMatch).cmdErr = s.cmdErr := rfl
@[simp] theorem State.clearMatch_fErr : (s.clearMatch).fErr = s.fErr := rfl
@[simp] theorem State.clearMatch_tmo : (s.clearMatch).tmo = s.tmo := rfl
@[simp] theorem State.clearMatch_slvOk : (s.clearMatch).slvOk = false := rfl
@[simp] theorem State.clearMatch_funOk : (s.clearMatch).funOk = false := rfl
@[simp] theorem State.clearMatch_cntOk : (s.clearMatch).cntOk = false := rfl
@[simp] theorem State.clearMatch_result : (s.clearMatch).result = s.result := rfl
@[simp] theorem State.clearMatch_crc : (s.clearMatch).crc = s.crc := rfl
@[simp] theorem State.clearMatch_slave : (s.clearMatch).slave = s.slave := rfl
@[simp] theorem State.clearMatch_func : (s.clearMatch).func = s.func := rfl
@[simp] theorem State.clearMatch_start : (s.clearMatch).start = s.start := rfl
@[simp] theorem State.clearMatch_count : (s.clearMatch).count = s.count := rfl
@[simp] theorem State.clearMatch_baud : (s.clearMatch).baud = s.baud := rfl
@[simp] theorem State.clearMatch_timeout : (s.clearMatch).timeout = s.timeout := rfl
@[simp] theorem State.clearMatch_txLen : (s.clearMatch).txLen = s.txLen := rfl
@[simp] theorem State.clearMatch_expLen : (s.clearMatch).expLen = s.expLen := rfl
@[simp] theorem State.clearMatch_rxLen : (s.clearMatch).rxLen = s.rxLen := rfl
@[simp] theorem State.clearMatch_payLen : (s.clearMatch).payLen = 0#8 := rfl
@[simp] theorem State.clearMatch_phase : (s.clearMatch).phase = s.phase := rfl
@[simp] theorem State.clearMatch_txIdx : (s.clearMatch).txIdx = s.txIdx := rfl
@[simp] theorem State.clearMatch_aBaud : (s.clearMatch).aBaud = s.aBaud := rfl
@[simp] theorem State.clearMatch_timer : (s.clearMatch).timer = s.timer := rfl
@[simp] theorem State.clearMatch_txBuf : (s.clearMatch).txBuf = s.txBuf := rfl
@[simp] theorem State.clearMatch_rxBuf : (s.clearMatch).rxBuf = s.rxBuf := rfl
@[simp] theorem State.clearMatch_hist : (s.clearMatch).hist = s.hist := rfl
@[simp] theorem State.clearMatch_retries : (s.clearMatch).retries = s.retries := rfl
@[simp] theorem State.clearMatch_lastSuccess : (s.clearMatch).lastSuccess = s.lastSuccess := rfl
@[simp] theorem State.clearMatch_worker : (s.clearMatch).worker = s.worker := rfl
@[simp] theorem State.clearMatch_hostEvents : (s.clearMatch).hostEvents = s.hostEvents := rfl
@[simp] theorem State.clearMatch_prog : (s.clearMatch).prog = s.prog := rfl
@[simp] theorem State.clearMatch_env : (s.clearMatch).env = s.env := rfl
@[simp] theorem State.clearMatch_draws : (s.clearMatch).draws = s.draws := rfl
@[simp] theorem State.clearMatch_trace : (s.clearMatch).trace = s.trace := rfl

@[simp] theorem State.appendRx_sess (b : Byte) : (s.appendRx b).sess = s.sess := rfl
@[simp] theorem State.appendRx_cmdErr (b : Byte) : (s.appendRx b).cmdErr = s.cmdErr := rfl
@[simp] theorem State.appendRx_fErr (b : Byte) : (s.appendRx b).fErr = s.fErr := rfl
@[simp] theorem State.appendRx_tmo (b : Byte) : (s.appendRx b).tmo = s.tmo := rfl
@[simp] theorem State.appendRx_slvOk (b : Byte) : (s.appendRx b).slvOk = s.slvOk := rfl
@[simp] theorem State.appendRx_funOk (b : Byte) : (s.appendRx b).funOk = s.funOk := rfl
@[simp] theorem State.appendRx_cntOk (b : Byte) : (s.appendRx b).cntOk = s.cntOk := rfl
@[simp] theorem State.appendRx_result (b : Byte) : (s.appendRx b).result = s.result := rfl
@[simp] theorem State.appendRx_crc (b : Byte) : (s.appendRx b).crc = s.crc := rfl
@[simp] theorem State.appendRx_slave (b : Byte) : (s.appendRx b).slave = s.slave := rfl
@[simp] theorem State.appendRx_func (b : Byte) : (s.appendRx b).func = s.func := rfl
@[simp] theorem State.appendRx_start (b : Byte) : (s.appendRx b).start = s.start := rfl
@[simp] theorem State.appendRx_count (b : Byte) : (s.appendRx b).count = s.count := rfl
@[simp] theorem State.appendRx_baud (b : Byte) : (s.appendRx b).baud = s.baud := rfl
@[simp] theorem State.appendRx_timeout (b : Byte) : (s.appendRx b).timeout = s.timeout := rfl
@[simp] theorem State.appendRx_txLen (b : Byte) : (s.appendRx b).txLen = s.txLen := rfl
@[simp] theorem State.appendRx_expLen (b : Byte) : (s.appendRx b).expLen = s.expLen := rfl
@[simp] theorem State.appendRx_rxLen (b : Byte) : (s.appendRx b).rxLen = s.rxLen + 1#9 := rfl
@[simp] theorem State.appendRx_payLen (b : Byte) : (s.appendRx b).payLen = s.payLen := rfl
@[simp] theorem State.appendRx_phase (b : Byte) : (s.appendRx b).phase = s.phase := rfl
@[simp] theorem State.appendRx_txIdx (b : Byte) : (s.appendRx b).txIdx = s.txIdx := rfl
@[simp] theorem State.appendRx_aBaud (b : Byte) : (s.appendRx b).aBaud = s.aBaud := rfl
@[simp] theorem State.appendRx_timer (b : Byte) : (s.appendRx b).timer = s.timer := rfl
@[simp] theorem State.appendRx_txBuf (b : Byte) : (s.appendRx b).txBuf = s.txBuf := rfl
@[simp] theorem State.appendRx_rxBuf (b : Byte) : (s.appendRx b).rxBuf = s.rxBuf.writeBelow Config.rxCap s.rxLen.toNat b := rfl
@[simp] theorem State.appendRx_hist (b : Byte) : (s.appendRx b).hist = s.hist := rfl
@[simp] theorem State.appendRx_retries (b : Byte) : (s.appendRx b).retries = s.retries := rfl
@[simp] theorem State.appendRx_lastSuccess (b : Byte) : (s.appendRx b).lastSuccess = s.lastSuccess := rfl
@[simp] theorem State.appendRx_worker (b : Byte) : (s.appendRx b).worker = s.worker := rfl
@[simp] theorem State.appendRx_hostEvents (b : Byte) : (s.appendRx b).hostEvents = s.hostEvents := rfl
@[simp] theorem State.appendRx_prog (b : Byte) : (s.appendRx b).prog = s.prog := rfl
@[simp] theorem State.appendRx_env (b : Byte) : (s.appendRx b).env = s.env := rfl
@[simp] theorem State.appendRx_draws (b : Byte) : (s.appendRx b).draws = s.draws := rfl
@[simp] theorem State.appendRx_trace (b : Byte) : (s.appendRx b).trace = s.trace := rfl

end Sys2Proof.Machine
end

