-- ==== Sys2Proof/Laws/Memory.lean ====
section
/-! SUPPORT. The laws of a buffer: read after write, and the canonical form every operation keeps. -/

namespace Sys2Proof.Machine

@[simp] theorem Memory.read_nil (a : Nat) : Memory.read [] a = none := rfl

theorem Memory.read_cons (k : Nat) (v : Byte) (m : Memory) (a : Nat) :
    Memory.read ((k, v) :: m) a = if k = a then some v else Memory.read m a := rfl

@[simp] theorem Memory.read_write_same (m : Memory) (a : Nat) (b : Byte) : (m.write a b).read a = some b := by
  induction m with
  | nil => simp [Memory.write, Memory.read_cons]
  | cons c m ih =>
    obtain ⟨k, v⟩ := c
    simp only [Memory.write]
    split
    · simp [Memory.read_cons]
    · split
      · simp [Memory.read_cons, *]
      · rw [Memory.read_cons, if_neg (by omega), ih]

theorem Memory.read_write_other (m : Memory) {a a' : Nat} (b : Byte) (h : a' ≠ a) :
    (m.write a b).read a' = m.read a' := by
  induction m with
  | nil => simp [Memory.write, Memory.read_cons, h.symm]
  | cons c m ih =>
    obtain ⟨k, v⟩ := c
    simp only [Memory.write]
    split
    · simp [Memory.read_cons, h.symm]
    · split
      · next hk => subst hk; simp [Memory.read_cons, h.symm]
      · simp [Memory.read_cons, ih]

/-- What one write can do to a read. -/
theorem Memory.read_write (m : Memory) (a a' : Nat) (b : Byte) :
    (m.write a b).read a' = if a' = a then some b else m.read a' := by
  split
  · next h => subst h; simp
  · next h => exact m.read_write_other b h

theorem Memory.read_writeBelow (cap : Nat) (m : Memory) (a a' : Nat) (b : Byte) :
    (m.writeBelow cap a b).read a' = if a' = a ∧ a < cap then some b else m.read a' := by
  unfold Memory.writeBelow
  split
  · simp [Memory.read_write, *]
  · simp [*]

/-- What writing a list of bytes can do to a read. -/
theorem Memory.read_writeList (bs : List Byte) (m : Memory) (a a' : Nat) :
    (m.writeList a bs).read a' = if a ≤ a' ∧ a' < a + bs.length then bs[a' - a]? else m.read a' := by
  induction bs generalizing m a with
  | nil => simp [Memory.writeList, show ¬(a ≤ a' ∧ a' < a) by omega]
  | cons b bs ih =>
    simp only [Memory.writeList, ih, List.length_cons, Memory.read_write]
    by_cases h : a' = a
    · subst h; simp
    · by_cases h' : a + 1 ≤ a' ∧ a' < a + 1 + bs.length
      · obtain ⟨j, rfl⟩ : ∃ j, a' = a + 1 + j := ⟨a' - (a + 1), by omega⟩
        have h1 : a ≤ a + 1 + j ∧ a + 1 + j < a + (bs.length + 1) := by omega
        rw [if_pos h', if_pos h1, show a + 1 + j - a = j + 1 by omega, show a + 1 + j - (a + 1) = j by omega]
        simp
      · rw [if_neg h', if_neg h, if_neg (by omega)]

theorem Memory.wfFrom_mono {cap lo lo' : Nat} {m : Memory} (h : m.wfFrom cap lo' = true) (hl : lo ≤ lo') :
    m.wfFrom cap lo = true := by
  cases m with
  | nil => rfl
  | cons c m =>
    obtain ⟨k, v⟩ := c
    simp only [Memory.wfFrom, Bool.and_eq_true, decide_eq_true_eq] at h ⊢
    exact ⟨⟨by omega, h.1.2⟩, h.2⟩

theorem Memory.wfFrom_write {cap lo a : Nat} {m : Memory} (b : Byte) (h : m.wfFrom cap lo = true) (hl : lo ≤ a)
    (ha : a < cap) : (m.write a b).wfFrom cap lo = true := by
  induction m generalizing lo with
  | nil => simp [Memory.write, Memory.wfFrom, hl, ha]
  | cons c m ih =>
    obtain ⟨k, v⟩ := c
    simp only [Memory.wfFrom, Bool.and_eq_true, decide_eq_true_eq] at h
    obtain ⟨⟨h1, h2⟩, h3⟩ := h
    simp only [Memory.write]
    split
    · simp only [Memory.wfFrom, Bool.and_eq_true, decide_eq_true_eq]
      exact ⟨⟨hl, ha⟩, ⟨by omega, h2⟩, h3⟩
    · split
      · simp only [Memory.wfFrom, Bool.and_eq_true, decide_eq_true_eq]
        exact ⟨⟨h1, h2⟩, h3⟩
      · simp only [Memory.wfFrom, Bool.and_eq_true, decide_eq_true_eq]
        exact ⟨⟨h1, h2⟩, ih h3 (by omega)⟩

/-- A write inside the buffer keeps the canonical form. -/
theorem Memory.wf_write {cap a : Nat} {m : Memory} (b : Byte) (h : m.wf cap = true) (ha : a < cap) :
    (m.write a b).wf cap = true := Memory.wfFrom_write b h (Nat.zero_le a) ha

theorem Memory.wf_writeBelow {cap : Nat} {m : Memory} (a : Nat) (b : Byte) (h : m.wf cap = true) :
    (m.writeBelow cap a b).wf cap = true := by
  unfold Memory.writeBelow
  split
  · exact Memory.wf_write b h ‹_›
  · exact h

theorem Memory.wf_writeList {cap a : Nat} {m : Memory} (bs : List Byte) (h : m.wf cap = true)
    (ha : a + bs.length ≤ cap) : (m.writeList a bs).wf cap = true := by
  induction bs generalizing m a with
  | nil => exact h
  | cons b bs ih =>
    simp only [List.length_cons] at ha
    exact ih (Memory.wf_write b h (by omega)) (by omega)

/-- The buffers of the machine after reset are canonical: nothing is listed. -/
theorem State.reset_memWf : State.reset.memWf = true := rfl

end Sys2Proof.Machine
end

