-- ==== Sys2Proof/Laws/Bytes.lean ====
section
/-! SUPPORT. The byte helpers: `pair`, `hiByte`, `loByte` undo each other, and their values. -/

namespace Sys2Proof

theorem pair_getLsbD (hi lo : Byte) (i : Nat) :
    (pair hi lo).getLsbD i = if i < 8 then lo.getLsbD i else hi.getLsbD (i - 8) := by
  unfold pair
  exact (BitVec.getLsbD_append (x := hi) (y := lo)).trans (by split <;> simp [*])

@[simp] theorem loByte_pair (hi lo : Byte) : loByte (pair hi lo) = lo := by
  apply BitVec.eq_of_getLsbD_eq
  intro i h
  simp [loByte, pair_getLsbD, h, -BitVec.getLsbD_eq_getElem]

@[simp] theorem hiByte_pair (hi lo : Byte) : hiByte (pair hi lo) = hi := by
  apply BitVec.eq_of_getLsbD_eq
  intro i h
  simp [hiByte, pair_getLsbD, h, -BitVec.getLsbD_eq_getElem]

@[simp] theorem pair_hiByte_loByte (w : Word16) : pair (hiByte w) (loByte w) = w := by
  apply BitVec.eq_of_getLsbD_eq
  intro i h
  rw [pair_getLsbD]
  split
  · simp [loByte, *, -BitVec.getLsbD_eq_getElem]
  · simp [hiByte, show 8 + (i - 8) = i by omega, show i - 8 < 8 by omega, -BitVec.getLsbD_eq_getElem]

theorem pair_toNat (hi lo : Byte) : (pair hi lo).toNat = 256 * hi.toNat + lo.toNat := by
  have h : (pair hi lo).toNat = hi.toNat <<< 8 ||| lo.toNat := BitVec.toNat_append hi lo
  rw [h, ← Nat.shiftLeft_add_eq_or_of_lt lo.isLt, Nat.shiftLeft_eq]
  omega

theorem pair_eq_iff (hi lo : Byte) (w : Word16) : pair hi lo = w ↔ hi = hiByte w ∧ lo = loByte w := by
  constructor
  · rintro rfl; simp
  · rintro ⟨rfl, rfl⟩; simp

end Sys2Proof
end

