-- ==== Sys2Proof/Laws/Crc.lean ====
section
/-! SUPPORT. The algebra of the CRC step (40_crc16 R94, R95): it is linear over exclusive or, it is injective in the
accumulator and in the byte, and rounds over low zeros only shift. -/

namespace Sys2Proof.Machine

/-- The CRC of a concatenation continues from the CRC of its first part. -/
theorem crcFrom_append (c : Word16) (a b : List Byte) : crcFrom c (a ++ b) = crcFrom (crcFrom c a) b := by
  simp [crcFrom]

/-- A round is linear. -/
theorem crcRound_xor (a b : Word16) : crcRound (a ^^^ b) = crcRound a ^^^ crcRound b := by
  apply BitVec.eq_of_getLsbD_eq
  intro i hi
  unfold crcRound
  have h : (a ^^^ b).getLsbD 0 = (a.getLsbD 0 ^^ b.getLsbD 0) := by simp
  rw [h, BitVec.ushiftRight_xor_distrib]
  cases a.getLsbD 0 <;> cases b.getLsbD 0 <;> simp [-BitVec.getLsbD_eq_getElem, -BitVec.getLsbD_ushiftRight] <;>
    cases (a >>> 1).getLsbD i <;> cases (b >>> 1).getLsbD i <;> cases Config.crcPoly.getLsbD i <;> rfl

/-- Rounds are linear. -/
theorem crcRounds_xor (n : Nat) (a b : Word16) : crcRounds n (a ^^^ b) = crcRounds n a ^^^ crcRounds n b := by
  induction n generalizing a b with
  | zero => rfl
  | succ n ih => simp only [crcRounds, crcRound_xor, ih]

/-- Rounds in two parts. -/
theorem crcRounds_add (m n : Nat) (a : Word16) : crcRounds (m + n) a = crcRounds n (crcRounds m a) := by
  induction m generalizing a with
  | zero => simp [crcRounds]
  | succ m ih => rw [show m + 1 + n = (m + n) + 1 by omega]; simp only [crcRounds, ih]

theorem crcRound_inj : ∀ a, crcRound a = 0#16 → a = 0#16 := by
  intro a h
  unfold crcRound at h
  split at h
  · have := congrArg (·.getLsbD 15) h
    simp [Config.crcPoly] at this
  · apply BitVec.eq_of_getLsbD_eq
    intro i hi
    rcases i with _ | i
    · simp_all
    · have := congrArg (·.getLsbD i) h
      simpa [-BitVec.getLsbD_eq_getElem, Nat.add_comm] using this

/-- Rounds lose nothing. -/
theorem crcRounds_inj (n : Nat) (a b : Word16) (h : crcRounds n a = crcRounds n b) : a = b := by
  have h0 : ∀ n a, crcRounds n a = 0#16 → a = 0#16 := by
    intro n
    induction n with
    | zero => exact fun a h => h
    | succ n ih => exact fun a h => crcRound_inj a (ih _ h)
  have := h0 n (a ^^^ b) (by rw [crcRounds_xor, h, BitVec.xor_self])
  exact BitVec.xor_eq_zero_iff.mp this

/-- Over low bits that are 0, rounds only shift. -/
theorem crcRounds_zeros (n : Nat) (a : Word16) (h : ∀ i < n, a.getLsbD i = false) : crcRounds n a = a >>> n := by
  induction n generalizing a with
  | zero => simp [crcRounds]
  | succ n ih =>
    have h0 := h 0 (by omega)
    rw [crcRounds, crcRound, if_neg (by rw [h0]; decide)]
    rw [ih _ (by intro i hi; simpa [-BitVec.getLsbD_eq_getElem] using h (1 + i) (by omega))]
    rw [← BitVec.shiftRight_add, Nat.add_comm]

/-- A step is linear in the accumulator and the byte together. -/
theorem crcStep_xor (c c' : Word16) (x y : Byte) : crcStep c x ^^^ crcStep c' y = crcStep (c ^^^ c') (x ^^^ y) := by
  unfold crcStep
  rw [← crcRounds_xor]
  congr 1
  apply BitVec.eq_of_getLsbD_eq
  intro i hi
  simp only [BitVec.getLsbD_xor, BitVec.getLsbD_setWidth]
  cases c.getLsbD i <;> cases c'.getLsbD i <;> cases x.getLsbD i <;> cases y.getLsbD i <;> simp

/-- A step with the accumulator's own low byte brings the high byte down. -/
theorem crcStep_low (c : Word16) : crcStep c (loByte c) = c >>> 8 := by
  unfold crcStep
  rw [crcRounds_zeros]
  · apply BitVec.eq_of_getLsbD_eq
    intro i hi
    simp [loByte, -BitVec.getLsbD_eq_getElem]
  · intro i hi
    simp [loByte, -BitVec.getLsbD_eq_getElem, hi, show i < 16 by omega]

theorem crcRounds_zero (n : Nat) : crcRounds n 0#16 = 0#16 := by
  rw [crcRounds_zeros _ _ (by simp)]; simp

/-- A step is injective in the accumulator. -/
theorem crcStep_inj_left (b : Byte) (c c' : Word16) (h : crcStep c b = crcStep c' b) : c = c' := by
  have := crcRounds_inj _ _ _ h
  exact (BitVec.xor_left_inj _).mp this

theorem crcFrom_inj_left (s : List Byte) (c c' : Word16) (h : crcFrom c s = crcFrom c' s) : c = c' := by
  induction s generalizing c c' with
  | nil => exact h
  | cons b s ih => exact crcStep_inj_left b c c' (ih _ _ h)

/-- A step is injective in the byte. -/
theorem crcStep_inj_right (c : Word16) (b b' : Byte) (h : crcStep c b = crcStep c b') : b = b' := by
  have h := crcRounds_inj _ _ _ h
  have h := (BitVec.xor_right_inj _).mp h
  apply BitVec.eq_of_getLsbD_eq
  intro i hi
  have := congrArg (·.getLsbD i) h
  simpa [-BitVec.getLsbD_eq_getElem, hi, show i < 16 by omega] using this

/-- Changing one byte of a string changes its CRC. -/
theorem crcFrom_set_ne (s : List Byte) (c : Word16) (i : Nat) (b : Byte) (hi : i < s.length) (hb : b ≠ s[i]) :
    crcFrom c (s.set i b) ≠ crcFrom c s := by
  induction s generalizing c i with
  | nil => simp at hi
  | cons a s ih =>
    rcases i with _ | i
    · intro h
      exact hb (crcStep_inj_right c _ _ (crcFrom_inj_left s _ _ h))
    · exact ih (crcStep c a) i (by simpa using hi) (by simpa using hb)

end Sys2Proof.Machine
end

