-- ==== Sys2Proof/Laws/Ops.lean ====
section
/-! SUPPORT. One lemma per shared operation: what it does, for callers that do not unfold it. -/

namespace Sys2Proof.Machine

/-! ### Busy, quiescent, refused -/

theorem State.busy_eq_false (s : State) : s.busy = false ↔ s.phase = .idle := by simp [State.busy]

theorem State.busy_eq_true (s : State) : s.busy = true ↔ s.phase ≠ .idle := by simp [State.busy]

theorem State.whenQuiescent_idle {s : State} (e : State) (h : s.busy = false) : s.whenQuiescent e = .next e := by
  simp [State.whenQuiescent, h]

theorem State.whenQuiescent_busy {s : State} (e : State) (h : s.busy = true) : s.whenQuiescent e = .next s.refuse := by
  simp [State.whenQuiescent, h]

/-- Every command is refused while busy. -/
theorem exec_command_busy {i : Instr} {s : State} (hi : i.isCommand = true) (h : s.busy = true) :
    exec i s = .next s.refuse := by
  cases i <;> first
    | exact State.whenQuiescent_busy _ h
    | simp [Instr.isCommand] at hi

/-- A command has one meaning, whichever way the host writes it. -/
theorem runMnemonic_eq_exec {i : Instr} (s : State) (hi : i.isCommand = true) : runMnemonic i s = exec i s := by
  cases i <;> first
    | rfl
    | simp [Instr.isCommand] at hi

/-- A flag of the last verdict reads as it is kept while quiescent, and as 0 while busy (20_memory R57). -/
theorem State.shown_idle {s : State} (flag : Bool) (h : s.busy = false) : s.shown flag = flag := by
  simp [State.shown, h]

theorem State.shown_busy {s : State} (flag : Bool) (h : s.busy = true) : s.shown flag = false := by
  simp [State.shown, h]

/-- `PAYLEN` likewise. -/
theorem State.regValue_payLen {s : State} (h : s.busy = false) : s.regValue 13#4 = s.payLen.setWidth 32 := by
  simp [State.regValue, h]

/-! ### The step -/

theorem step_hostNext (s : State) (l : Line) : step (s.hostNext l) = runLine l s := rfl

theorem step_eventNext (s : State) (e : Event) : step (s.eventNext e) = runEvent e s := rfl

theorem step_of_env {s : State} {e : Event} {rest : List Event} (h : s.env = e :: rest) :
    step s = runEvent e { s with env := rest } := by
  simp [step, runStep, h]

/-- The host's turn takes the head of its program. -/
theorem step_host_line {s : State} {l : Line} {ls : List Line} {es : List Event} (he : s.env = .host :: es)
    (hl : s.prog = l :: ls) : step s = runLine l { s with env := es, prog := ls } := by
  simp [step_of_env he, runEvent, hostTurn, hl]

/-- With the script empty the host moves while the block is quiescent. -/
theorem step_quiescent {s : State} (h : s.env = []) (hb : s.busy = false) : step s = hostTurn s := by
  simp [step, runStep, h, hb]

/-- With the script empty and the block busy the answer is free. -/
theorem step_free {s : State} (h : s.env = []) (hb : s.busy = true) :
    step s = runEvent (Config.envAnswer s.draws) s.drawn := by
  simp [step, runStep, h, hb]

theorem runSteps_succ {s t : State} (n : Nat) (h : step s = .next t) : runSteps (n + 1) s = runSteps n t := by
  simp [runSteps, h]

theorem runSteps_add (m n : Nat) (s : State) : runSteps (m + n) s = (runSteps m s).bind (runSteps n) := by
  induction m generalizing s with
  | zero => simp [runSteps]
  | succ m ih =>
    rw [show m + 1 + n = (m + n) + 1 by omega]
    simp only [runSteps]
    cases step s <;> simp [ih]

/-! ### The host's lines -/

/-- `s` with the host's and the model's own fields of `t`: what an action that touches no field of the block answers. -/
def State.withOwn (s t : State) : State :=
  { s with
    retries := t.retries, lastSuccess := t.lastSuccess, worker := t.worker, hostEvents := t.hostEvents, prog := t.prog
    env := t.env, draws := t.draws, trace := t.trace }

theorem State.orLeave_running {s : State} (t : State) (h : s.worker.stopping = false) : s.orLeave t = t := by
  simp [State.orLeave, h]

theorem State.orLeave_stopping {s : State} (t : State) (h : s.worker.stopping = true) : s.orLeave t = t.leave := by
  simp [State.orLeave, h]

/-- The decision of POLL touches no field of the block (43_host_software: no state of the block implements the engine). -/
theorem State.pollDecision_own (s : State) (start : Word32) (shape : Shape) (left : Nat) :
    s.pollDecision start shape left = s.withOwn (s.pollDecision start shape left) := by
  unfold State.pollDecision State.orLeave
  split_ifs <;> rfl

/-- No step of the poll engine touches a field of the block. -/
theorem State.engineStep_own (s : State) (e : EngineStep) : s.engineStep e = s.withOwn (s.engineStep e) := by
  cases e with
  | pollCheck start shape left => exact s.pollDecision_own start shape left
  | pause ms =>
    simp only [State.engineStep, State.orLeave]
    split <;> rfl
  | item item =>
    simp only [State.engineStep]
    split <;> rfl
  | nextSweep =>
    simp only [State.engineStep]
    split <;> rfl
  | alarmReport => rfl
  | connectCheck =>
    simp only [State.engineStep, State.connectDecision]
    split <;> rfl

/-- A stop request touches no field of the block. -/
theorem State.requestStop_own (s : State) : s.requestStop = s.withOwn s.requestStop := by
  unfold State.requestStop
  split <;> rfl

theorem issue_nil (s : State) : issue [] s = .next s := rfl

theorem issue_cons {s t : State} {l : Line} (ls : List Line) (hb : s.busy = false) (h : issueLine l s = .next t) :
    issue (l :: ls) s = issue ls t := by
  simp [issue, hb, h]

/-- Lines issued while busy are queued. -/
theorem issue_busy {s : State} (ls : List Line) (hb : s.busy = true) : issue ls s = .next (s.queue ls) := by
  cases ls with
  | nil => rfl
  | cons l ls => simp [issue, hb]

/-- Bytes fed to the CRC one command at a time. -/
theorem issue_crcbytes (bytes : List Byte) (ls : List Line) (s : State) (hb : s.busy = false) :
    issue (byteLines .crcbyte bytes ++ ls) s = issue ls { s with crc := crcFrom s.crc bytes } := by
  induction bytes generalizing s with
  | nil => rfl
  | cons b bytes ih =>
    have h : issueLine (.op (.crcbyte b)) s = .next { s with crc := crcStep s.crc b } := State.whenQuiescent_idle _ hb
    exact (issue_cons _ hb h).trans (ih _ hb)

theorem Memory.writeBelow_of_lt {cap a : Nat} (m : Memory) (b : Byte) (h : a < cap) :
    m.writeBelow cap a b = m.write a b := if_pos h

/-- Bytes pushed one command at a time after an RXCLR. -/
theorem issue_rxpushes (bytes : List Byte) (ls : List Line) (s : State) (hb : s.busy = false)
    (hv : s.clearVerdict = s) (hl : s.rxLen.toNat + bytes.length ≤ 256) :
    issue (byteLines .rxpush bytes ++ ls) s =
      issue ls { s with
        rxBuf := s.rxBuf.writeList s.rxLen.toNat bytes, rxLen := s.rxLen + BitVec.ofNat 9 bytes.length } := by
  induction bytes generalizing s with
  | nil => simp [byteLines, Memory.writeList]
  | cons b bytes ih =>
    simp only [List.length_cons] at hl
    have hlt : s.rxLen.toNat < 256 := by omega
    have h1 : (s.rxLen + 1#9).toNat = s.rxLen.toNat + 1 := by
      rw [BitVec.toNat_add]; simp; omega
    have h : issueLine (.op (.rxpush b)) s = .next (s.appendRx b) := by
      have hne : ¬s.rxLen.toNat = Config.rxCap := by simp only [Config.rxCap]; omega
      have : (s.appendRx b).clearVerdict = s.appendRx b := by
        conv_rhs => rw [← hv]
        rfl
      show s.whenQuiescent (if s.rxLen.toNat = Config.rxCap then s.refuse else (s.appendRx b).clearVerdict) = _
      rw [State.whenQuiescent_idle _ hb, if_neg hne, this]
    have hb' : (s.appendRx b).busy = false := hb
    have hv' : (s.appendRx b).clearVerdict = s.appendRx b := by
      conv_rhs => rw [← hv]
      rfl
    have hr : (s.appendRx b).rxLen = s.rxLen + 1#9 := rfl
    refine (issue_cons _ hb h).trans ((ih _ hb' hv' (by rw [hr, h1]; omega)).trans ?_)
    have hw : (s.appendRx b).rxBuf = s.rxBuf.write s.rxLen.toNat b := Memory.writeBelow_of_lt _ _ hlt
    rw [hw, hr, h1]
    have ha : s.rxLen + 1#9 + BitVec.ofNat 9 bytes.length = s.rxLen + BitVec.ofNat 9 (b :: bytes).length := by
      rw [BitVec.add_assoc, List.length_cons, Nat.add_comm bytes.length 1, BitVec.ofNat_add]
    rw [ha]
    rfl

/-- REQ's register writes and its BUILD. -/
theorem issue_req (a f b c : Word32) (ls : List Line) (s : State) (hb : s.busy = false)
    (hc : (c.setWidth 16).toNat ≤ 125) :
    issue (reqLines a f b c ++ ls) s = issue ls (State.buildRequest { s with
      slave := a.setWidth 8, func := f.setWidth 8, start := b.setWidth 16, count := c.setWidth 16 }) := by
  have w : ∀ (n : RegNum) (v : Word32) (u : State), n ≠ 0#4 → u.busy = false →
      issueLine (.wr n v) u = .next (u.storeReg n v) := by
    intro n v u hn hu
    simp [issueLine, hn, State.writeReg, hu]
  simp only [reqLines, List.cons_append, List.nil_append]
  rw [issue_cons _ hb (w 4#4 a s (by decide) hb), issue_cons (s := s.storeReg 4#4 a) _ hb (w 5#4 f _ (by decide) hb),
    issue_cons (s := (s.storeReg 4#4 a).storeReg 5#4 f) _ hb (w 6#4 b _ (by decide) hb),
    issue_cons (s := ((s.storeReg 4#4 a).storeReg 5#4 f).storeReg 6#4 b) _ hb (w 7#4 c _ (by decide) hb)]
  refine issue_cons _ hb ?_
  exact (State.whenQuiescent_idle (s := (((s.storeReg 4#4 a).storeReg 5#4 f).storeReg 6#4 b).storeReg 7#4 c) _ hb).trans
    (congrArg _ (if_neg (Nat.not_lt.mpr hc)))

/-- REQ's register writes and its refused BUILD (41_frame_codec R104). -/
theorem issue_req_refused (a f b c : Word32) (ls : List Line) (s : State) (hb : s.busy = false)
    (hc : 125 < (c.setWidth 16).toNat) :
    issue (reqLines a f b c ++ ls) s = issue ls (State.refuse { s with
      slave := a.setWidth 8, func := f.setWidth 8, start := b.setWidth 16, count := c.setWidth 16 }) := by
  have w : ∀ (n : RegNum) (v : Word32) (u : State), n ≠ 0#4 → u.busy = false →
      issueLine (.wr n v) u = .next (u.storeReg n v) := by
    intro n v u hn hu
    simp [issueLine, hn, State.writeReg, hu]
  have hbuild : ∀ u : State, u.busy = false → 125 < u.count.toNat → issueLine (.op .build) u = .next u.refuse :=
    fun u hu h => (State.whenQuiescent_idle _ hu).trans (congrArg _ (if_pos h))
  simp only [reqLines, List.cons_append, List.nil_append]
  rw [issue_cons _ hb (w 4#4 a s (by decide) hb), issue_cons (s := s.storeReg 4#4 a) _ hb (w 5#4 f _ (by decide) hb),
    issue_cons (s := (s.storeReg 4#4 a).storeReg 5#4 f) _ hb (w 6#4 b _ (by decide) hb),
    issue_cons (s := ((s.storeReg 4#4 a).storeReg 5#4 f).storeReg 6#4 b) _ hb (w 7#4 c _ (by decide) hb)]
  exact issue_cons _ hb (hbuild _ hb hc)

/-! ### Buffers as the block reads them -/

/-- Reading back a list written at 0. -/
theorem Memory.map_read_writeList (m : Memory) (bs : List Byte) (d : Nat → Byte) {n : Nat} (hn : n ≤ bs.length) :
    ((List.range n).map fun i => ((m.writeList 0 bs).read i).getD (d i)) = bs.take n := by
  apply List.ext_getElem
  · simp [hn]
  · intro i h1 h2
    have hi : i < n := by simpa using h1
    simp [Memory.read_writeList, show i < bs.length by omega]

theorem requestHeader_length (a f : Byte) (b c : Word16) : (requestHeader a f b c).length = 6 := rfl

theorem withCrc_length (body : List Byte) : (withCrc body).length = body.length + 2 := by simp [withCrc]

theorem requestFrame_length (a f : Byte) (b c : Word16) : (requestFrame a f b c).length = 8 := rfl

theorem State.buildRequest_txBytes (s : State) :
    s.buildRequest.txBytes 8 = requestFrame s.slave s.func s.start s.count :=
  Memory.map_read_writeList s.txBuf (requestFrame s.slave s.func s.start s.count) Config.powerOnTx
    (n := 8) (by simp [requestFrame_length])

theorem State.buildRequest_txBytes6 (s : State) :
    s.buildRequest.txBytes 6 = requestHeader s.slave s.func s.start s.count :=
  Memory.map_read_writeList s.txBuf (requestFrame s.slave s.func s.start s.count) Config.powerOnTx
    (n := 6) (by simp [requestFrame_length])

theorem State.buildRequest_expLen (s : State) (h : s.count.toNat ≤ 125) :
    s.buildRequest.expLen.toNat = 5 + 2 * s.count.toNat := by
  show (BitVec.ofNat 9 (5 + 2 * s.count.toNat)).toNat = _
  rw [BitVec.toNat_ofNat]; omega

theorem State.buildRequest_read (s : State) {x : Nat} (h : 8 ≤ x) :
    s.buildRequest.txBuf.read x = s.txBuf.read x := by
  show (s.txBuf.writeList 0 _).read x = _
  rw [Memory.read_writeList, requestFrame_length, if_neg (by omega)]

/-! ### The validator -/

theorem State.validate_short {s : State} (h : s.rxLen.toNat < 5) : s.validate = s.clearMatch.raise .tooShort := by
  simp [State.validate, h]

theorem State.validate_crc {s : State} {n : Nat} (h : s.rxLen.toNat = n + 5)
    (hc : pair (s.rxByte (n + 4)) (s.rxByte (n + 3)) ≠ crc16 (s.rxBytes (n + 3))) :
    s.validate = State.raise { s.clearMatch with crc := crc16 (s.rxBytes (n + 3)) } .crcMismatch := by
  have hne : s.rxByte (n + 3) ≠ loByte (crc16 (s.rxBytes (n + 3))) ∨
      s.rxByte (n + 4) ≠ hiByte (crc16 (s.rxBytes (n + 3))) := by
    by_contra hcon
    push Not at hcon
    exact hc ((pair_eq_iff _ _ _).mpr ⟨hcon.2, hcon.1⟩)
  simp [State.validate, h, hne]

theorem State.validate_length {s : State} {n : Nat} (h : s.rxLen.toNat = n + 5)
    (hc : pair (s.rxByte (n + 4)) (s.rxByte (n + 3)) = crc16 (s.rxBytes (n + 3))) (hn : (s.rxByte 2).toNat ≠ n) :
    s.validate = State.raise { s.clearMatch with crc := crc16 (s.rxBytes (n + 3)) } .lengthMismatch := by
  obtain ⟨h4, h3⟩ := (pair_eq_iff _ _ _).mp hc
  simp [State.validate, h, hn, ← h3, ← h4]

theorem State.validate_ok {s : State} {n : Nat} (h : s.rxLen.toNat = n + 5)
    (hc : pair (s.rxByte (n + 4)) (s.rxByte (n + 3)) = crc16 (s.rxBytes (n + 3))) (hn : (s.rxByte 2).toNat = n) :
    s.validate = State.matchRequest { s.clearMatch with
      crc := crc16 (s.rxBytes (n + 3)), result := .ok, payLen := s.rxByte 2 } := by
  obtain ⟨h4, h3⟩ := (pair_eq_iff _ _ _).mp hc
  simp [State.validate, h, hn, ← h3, ← h4]

/-- The validator writes the last verdict over, whatever it was. -/
theorem State.validate_overwrites (s : State) (r : ResultCode) (p : Byte) (a b c : Bool) :
    State.validate { s with result := r, payLen := p, slvOk := a, funOk := b, cntOk := c } = s.validate := rfl

/-- All the validator writes outside a transaction (41_frame_codec R109, R110). -/
theorem State.validate_frame {s : State} (h : s.phase = .idle) :
    s.validate = { s with
      result := s.validate.result, crc := s.validate.crc, payLen := s.validate.payLen, slvOk := s.validate.slvOk
      funOk := s.validate.funOk, cntOk := s.validate.cntOk } := by
  unfold State.validate State.matchRequest State.raise State.clearMatch
  dsimp only
  split_ifs <;> simp_all

/-- The verdict depends on the buffers, their lengths and `CRC` alone. -/
theorem State.validate_congr {s t : State} (hs : s.phase = .idle) (ht : t.phase = .idle) (h1 : t.rxBuf = s.rxBuf)
    (h2 : t.rxLen = s.rxLen) (h3 : t.txBuf = s.txBuf) (h4 : t.txLen = s.txLen) (h5 : t.crc = s.crc) :
    t.validate = { t with
      result := s.validate.result, crc := s.validate.crc, payLen := s.validate.payLen, slvOk := s.validate.slvOk
      funOk := s.validate.funOk, cntOk := s.validate.cntOk } := by
  have hb : t.rxByte = s.rxByte := by funext i; simp [State.rxByte, h1]
  have hx : ∀ n, t.rxBytes n = s.rxBytes n := by intro n; simp [State.rxBytes, hb]
  rcases Nat.lt_or_ge s.rxLen.toNat 5 with hl | hl
  · rw [State.validate_short hl, State.validate_short (s := t) (by rw [h2]; exact hl)]
    simp [State.raise, State.clearMatch, hs, ht, h5]
  · obtain ⟨n, hn⟩ : ∃ n, s.rxLen.toNat = n + 5 := ⟨s.rxLen.toNat - 5, by omega⟩
    have hn' : t.rxLen.toNat = n + 5 := by rw [h2, hn]
    by_cases hc : pair (s.rxByte (n + 4)) (s.rxByte (n + 3)) = crc16 (s.rxBytes (n + 3))
    · have hc' : pair (t.rxByte (n + 4)) (t.rxByte (n + 3)) = crc16 (t.rxBytes (n + 3)) := by rw [hb, hx, hc]
      by_cases hk : (s.rxByte 2).toNat = n
      · rw [State.validate_ok hn hc hk, State.validate_ok hn' hc' (by rw [hb]; exact hk)]
        have hm : ∀ (u : State) (i : Nat), u.rxBuf = s.rxBuf → u.rxByte i = s.rxByte i := by
          intro u i h; simp [State.rxByte, h]
        have hmt : ∀ (u : State) (i : Nat), u.txBuf = s.txBuf → u.txByte i = s.txByte i := by
          intro u i h; simp [State.txByte, h]
        simp only [State.matchRequest, State.clearMatch, h4]
        by_cases hq : s.txLen = 8#4 <;> simp [hq, hx, hm, hmt, h1, h3]
      · rw [State.validate_length hn hc hk, State.validate_length hn' hc' (by rw [hb]; exact hk)]
        simp [State.raise, State.clearMatch, hs, ht, hx]
    · have hc' : pair (t.rxByte (n + 4)) (t.rxByte (n + 3)) ≠ crc16 (t.rxBytes (n + 3)) := by rw [hb, hx]; exact hc
      rw [State.validate_crc hn hc, State.validate_crc hn' hc']
      simp [State.raise, State.clearMatch, hs, ht, hx]

/-! ### The transmitter -/

/-- All that sending bytes can change. -/
theorem State.sendBytes_frame (n : Nat) (s : State) :
    s.sendBytes n = { s with txIdx := (s.sendBytes n).txIdx, hist := (s.sendBytes n).hist } := by
  induction n generalizing s with
  | zero => rfl
  | succ n ih => rw [State.sendBytes, ih]; rfl

/-! ### The receiver -/

theorem State.receiving_eq_true (s : State) :
    s.receiving = true ↔ s.phase = .rx ∧ s.rxLen.toNat < s.expLen.toNat := by
  simp [State.receiving]

theorem State.receiveByte_off {s : State} (b : Byte) (h : s.receiving = false) : s.receiveByte b = s := by
  simp [State.receiveByte, h]

theorem State.receiveBytes_off {s : State} (bytes : List Byte) (h : s.receiving = false) : s.receiveBytes bytes = s := by
  induction bytes with
  | nil => rfl
  | cons b bytes ih => rw [State.receiveBytes, State.receiveByte_off b h, ih]

/-- What bytes on the line do in the receive phase: as many as are still expected are stored, counted and recorded. -/
theorem State.receiveBytes_on {s : State} (bytes : List Byte) (hp : s.phase = .rx)
    (hl : s.rxLen.toNat ≤ s.expLen.toNat) (he : s.expLen.toNat ≤ 256) :
    s.receiveBytes bytes = { s with
      rxBuf := s.rxBuf.writeList s.rxLen.toNat (bytes.take (s.expLen.toNat - s.rxLen.toNat))
      rxLen := s.rxLen + BitVec.ofNat 9 (min bytes.length (s.expLen.toNat - s.rxLen.toNat))
      hist := s.hist ++ (bytes.take (s.expLen.toNat - s.rxLen.toNat)).map .rxByte } := by
  induction bytes generalizing s with
  | nil => simp [State.receiveBytes, Memory.writeList]
  | cons b bytes ih =>
    by_cases hlt : s.rxLen.toNat < s.expLen.toNat
    · have hr : s.receiving = true := s.receiving_eq_true.mpr ⟨hp, hlt⟩
      have h1 : (s.rxLen + 1#9).toNat = s.rxLen.toNat + 1 := by
        rw [BitVec.toNat_add]; simp; omega
      have hs : s.receiveByte b = { s with
          rxBuf := s.rxBuf.write s.rxLen.toNat b, rxLen := s.rxLen + 1#9, hist := s.hist ++ [.rxByte b] } := by
        rw [State.receiveByte, if_pos hr]
        simp only [State.appendRx, State.emit]
        rw [Memory.writeBelow_of_lt _ _ (show s.rxLen.toNat < Config.rxCap by simp only [Config.rxCap]; omega)]
      rw [State.receiveBytes, ih (s := s.receiveByte b) (by rw [hs]; exact hp) (by rw [hs]; simp only [h1]; omega)
        (by rw [hs]; exact he), hs]
      obtain ⟨j, hj⟩ : ∃ j, s.expLen.toNat - s.rxLen.toNat = j + 1 := ⟨s.expLen.toNat - s.rxLen.toNat - 1, by omega⟩
      have hj' : s.expLen.toNat - (s.rxLen.toNat + 1) = j := by omega
      simp only [h1, hj, hj', List.take_succ_cons, Memory.writeList, List.map_cons, List.append_assoc,
        List.singleton_append, List.length_cons, Nat.add_min_add_right]
      rw [BitVec.add_assoc, BitVec.ofNat_add, BitVec.add_comm (BitVec.ofNat 9 _)]
    · have h0 : s.expLen.toNat - s.rxLen.toNat = 0 := by omega
      have hr : s.receiving = false := by
        rw [← Bool.not_eq_true, State.receiving_eq_true]; omega
      rw [State.receiveBytes_off _ hr]
      simp [h0, Memory.writeList]

end Sys2Proof.Machine
end

