-- ==== Sys2Proof/Laws/PerInstr.lean ====
section
/-! SUPPORT. A statement per instruction: the shape of its encoding. -/

namespace Sys2Proof.Laws.EncodeShape

/-- A command is a word whose low byte is an operation code 0x01 to 0x0A (R83); a frame's second byte is 0x03 (R69, R70);
a character has start bit 0 and stop bit 1 (R79); a pseudo-operation has no bits (R92). -/
def Statement (i : Instr) : Prop :=
  match encode i with
  | some (.cmd w) => i.isCommand = true ∧ 0x01 ≤ (loByte w).toNat ∧ (loByte w).toNat ≤ 0x0A
  | some (.frame _ bytes) => i.isWire = true ∧ bytes[1]? = some 0x03#8
  | some (.char levels) => i.isWire = true ∧ levels.getLsbD 9 = false ∧ levels.getLsbD 0 = true
  | none => i.isCommand = false ∧ i.isWire = false

theorem loByte_encodeCmd (op arg : Byte) : loByte (encodeCmd op arg) = op := loByte_pair arg op

theorem command_shape (op arg : Byte) (h : 0x01 ≤ op.toNat ∧ op.toNat ≤ 0x0A) :
    0x01 ≤ (loByte (encodeCmd op arg)).toNat ∧ (loByte (encodeCmd op arg)).toNat ≤ 0x0A := by
  rw [loByte_encodeCmd]; exact h

theorem crcinit : Statement .crcinit := ⟨rfl, command_shape _ _ (by decide)⟩
theorem crcbyte (b : Byte) : Statement (.crcbyte b) := ⟨rfl, command_shape _ _ (by decide)⟩
theorem build : Statement .build := ⟨rfl, command_shape _ _ (by decide)⟩
theorem rxclr : Statement .rxclr := ⟨rfl, command_shape _ _ (by decide)⟩
theorem rxpush (b : Byte) : Statement (.rxpush b) := ⟨rfl, command_shape _ _ (by decide)⟩
theorem parse : Statement .parse := ⟨rfl, command_shape _ _ (by decide)⟩
theorem openSession : Statement .openSession := ⟨rfl, command_shape _ _ (by decide)⟩
theorem closeSession : Statement .closeSession := ⟨rfl, command_shape _ _ (by decide)⟩
theorem xfer : Statement .xfer := ⟨rfl, command_shape _ _ (by decide)⟩
theorem clrerr : Statement .clrerr := ⟨rfl, command_shape _ _ (by decide)⟩
theorem crc16 (bytes : List Byte) : Statement (.crc16 bytes) := ⟨rfl, rfl⟩
theorem req (slave func start count : Word32) : Statement (.req slave func start count) := ⟨rfl, rfl⟩
theorem parsebytes (bytes : List Byte) : Statement (.parsebytes bytes) := ⟨rfl, rfl⟩
theorem transact (slave func start count : Word32) : Statement (.transact slave func start count) := ⟨rfl, rfl⟩
theorem poll (slave func start count : Word32) (limit : Nat) : Statement (.poll slave func start count limit) :=
  ⟨rfl, rfl⟩
theorem wait : Statement .wait := ⟨rfl, rfl⟩
theorem rtuRequest (slave startHi startLo countHi countLo crcLo crcHi : Byte) :
    Statement (.rtuRequest slave startHi startLo countHi countLo crcLo crcHi) := ⟨rfl, rfl⟩
theorem rtuResponse (slave : Byte) (data : List Byte) (crcLo crcHi : Byte) :
    Statement (.rtuResponse slave data crcLo crcHi) := ⟨rfl, rfl⟩
theorem uartChar (data : Byte) : Statement (.uartChar data) := by
  refine ⟨rfl, ?_, ?_⟩ <;> revert data <;> decide

end Sys2Proof.Laws.EncodeShape
end

