-- ==== Sys2Proof/Laws/Steps.lean ====
section
/-! SUPPORT. What a step can do, said once: every step is a chain of the moves below. An invariant kept by each move is kept
by every step. -/

namespace Sys2Proof.Machine

/-- The moves of the machine, each with the condition it is taken under. -/
inductive Move : State → State → Prop where
  /-- The host's and the model's own fields, and no field of the block. -/
  | own (s t : State) (h : t = s.withOwn t) : Move s t
  | refuse (s : State) : Move s s.refuse
  /-- A register write, CRCINIT and CRCBYTE (R36, R96, R97). -/
  | registers (s : State) (c : Word16) (sl fn : Byte) (st co : Word16) (ba ti : Word32) (h : s.busy = false) :
      Move s { s with crc := c, slave := sl, func := fn, start := st, count := co, baud := ba, timeout := ti }
  /-- The one register write allowed while busy (R56). -/
  | timeout (s : State) (v : Word32) : Move s { s with timeout := v }
  | build (s : State) (h : s.busy = false) (hc : s.count.toNat ≤ 125) : Move s s.buildRequest
  | rxclr (s : State) (h : s.busy = false) : Move s { s.clearVerdict with rxLen := 0#9 }
  | rxpush (s : State) (b : Byte) (h : s.busy = false) (hl : s.rxLen.toNat ≠ 256) : Move s (s.appendRx b).clearVerdict
  | parse (s : State) (h : s.busy = false) : Move s s.validate
  | opening (s : State) (h : s.busy = false) (hs : s.sess = .disconnected) :
      Move s { s with sess := .connecting, result := .none, phase := .opening }
  | close (s : State) (h : s.busy = false) : Move s { s with sess := .disconnected }
  | xfer (s : State) (h : s.busy = false) (hs : s.sess = .idle) (ht : s.txLen = 8#4) : Move s s.acceptXfer
  | clrerr (s : State) (h : s.busy = false) : Move s { s with cmdErr := false, fErr := false }
  | openSucceeds (s : State) (h : s.phase = .opening) : Move s s.openSucceeds
  | openFails (s : State) (h : s.phase = .opening) : Move s s.openFails
  | send (s : State) (h : s.phase = .tx) (hi : s.txIdx.toNat < 8) : Move s s.sendByte
  | endWrite (s : State) (h : s.phase = .tx) (hi : s.txIdx.toNat = 8) : Move s s.endWrite
  | fatalTx (s : State) (h : s.phase = .tx) : Move s s.fatalTx
  | time (s : State) (n : Nat) (h : s.phase = .rx) : Move s { s with timer := some n }
  | receive (s : State) (b : Byte) (h : s.receiving = true) : Move s ((s.appendRx b).emit (.rxByte b))
  | badStop (s : State) (h : s.phase = .rx) : Move s { s with fErr := true }
  | endRead (s : State) (h : s.phase = .rx) (hl : s.rxLen.toNat = s.expLen.toNat) : Move s s.endRead
  | readTimeout (s : State) (h : s.phase = .rx) (hl : s.rxLen.toNat < s.expLen.toNat) : Move s s.readTimeout
  | fatalRx (s : State) (h : s.phase = .rx) : Move s s.fatalRx
  | check (s : State) (h : s.phase = .check) : Move s s.checkFrame
  | reset (s : State) : Move s s.resetBlock

/-- Chains of moves. -/
abbrev Moves : State → State → Prop := Relation.ReflTransGen Move

theorem Move.chain {s t : State} (h : Move s t) : Moves s t := Relation.ReflTransGen.single h

theorem moves_refl (s : State) : Moves s s := Relation.ReflTransGen.refl

theorem moves_own {s t : State} (h : t = s.withOwn t) : Moves s t := (Move.own s t h).chain

theorem moves_quiescent {s t e : State} (he : s.busy = false → Moves s e) (h : s.whenQuiescent e = .next t) :
    Moves s t := by
  cases hb : s.busy with
  | true =>
    rw [State.whenQuiescent_busy e hb] at h
    injection h with h
    exact h ▸ (Move.refuse s).chain
  | false =>
    rw [State.whenQuiescent_idle e hb] at h
    injection h with h
    exact h ▸ he hb

theorem moves_command {i : Instr} {s t : State} (hi : i.isCommand = true) (h : exec i s = .next t) : Moves s t := by
  cases i <;> simp [Instr.isCommand] at hi
  case crcinit =>
    exact moves_quiescent (e := { s with crc := Config.crcInit })
      (fun hb => (Move.registers s _ s.slave s.func s.start s.count s.baud s.timeout hb).chain) h
  case crcbyte b =>
    exact moves_quiescent (e := { s with crc := crcStep s.crc b })
      (fun hb => (Move.registers s _ s.slave s.func s.start s.count s.baud s.timeout hb).chain) h
  case build =>
    refine moves_quiescent (fun hb => ?_) h
    split
    · exact (Move.refuse s).chain
    · exact (Move.build s hb (Nat.not_lt.mp ‹_›)).chain
  case rxclr => exact moves_quiescent (fun hb => (Move.rxclr s hb).chain) h
  case rxpush b =>
    refine moves_quiescent (fun hb => ?_) h
    split
    · exact (Move.refuse s).chain
    · exact (Move.rxpush s b hb ‹_›).chain
  case parse => exact moves_quiescent (fun hb => (Move.parse s hb).chain) h
  case openSession =>
    refine moves_quiescent (fun hb => ?_) h
    split
    · exact (Move.opening s hb ‹_›).chain.trans (moves_own rfl)
    · exact (Move.refuse s).chain
  case closeSession => exact moves_quiescent (fun hb => (Move.close s hb).chain.trans (moves_own rfl)) h
  case xfer =>
    refine moves_quiescent (fun hb => ?_) h
    split
    · next hx => exact (Move.xfer s hb hx.1 hx.2).chain
    · exact (Move.refuse s).chain
  case clrerr => exact moves_quiescent (fun hb => (Move.clrerr s hb).chain) h

theorem moves_readReg (s : State) (n : RegNum) : Moves s (s.readReg n) := by
  unfold State.readReg
  split
  · exact moves_own rfl
  · exact moves_own rfl

theorem moves_queue (s : State) (ls : List Line) : Moves s (s.queue ls) :=
  moves_own rfl

theorem moves_wait {s t : State} (h : execWait s = .next t) : Moves s t := by
  unfold execWait at h
  injection h with h
  subst h
  split
  · exact (moves_readReg s _).trans (moves_queue _ _)
  · exact moves_readReg s _

theorem moves_mnemonic {i : Instr} {s t : State} (h : runMnemonic i s = .next t) : Moves s t := by
  cases hi : i.isCommand with
  | true => exact moves_command hi ((runMnemonic_eq_exec s hi).symm.trans h)
  | false =>
    cases i <;> simp [Instr.isCommand] at hi
    case wait => exact moves_wait h
    all_goals first
      | (injection h with h; subst h; exact moves_queue s _)
      | simp [runMnemonic] at h

theorem moves_writeReg (s : State) (n : RegNum) (v : Word32) : Moves s (s.writeReg n v) := by
  unfold State.writeReg
  split
  · exact (Move.refuse s).chain
  · next hn =>
    unfold State.storeReg
    by_cases hb : s.busy = true
    · have h9 : n = 9#4 := by
        by_contra h9
        exact hn ⟨hb, h9⟩
      subst h9
      exact (Move.timeout s v).chain
    · have hb := Bool.not_eq_true _ ▸ hb
      split
      all_goals first
        | exact (Move.registers s _ s.slave s.func s.start s.count s.baud s.timeout hb).chain
        | exact (Move.registers s s.crc _ s.func s.start s.count s.baud s.timeout hb).chain
        | exact (Move.registers s s.crc s.slave _ s.start s.count s.baud s.timeout hb).chain
        | exact (Move.registers s s.crc s.slave s.func _ s.count s.baud s.timeout hb).chain
        | exact (Move.registers s s.crc s.slave s.func s.start _ s.baud s.timeout hb).chain
        | exact (Move.registers s s.crc s.slave s.func s.start s.count _ s.timeout hb).chain
        | exact (Move.registers s s.crc s.slave s.func s.start s.count s.baud _ hb).chain
        | exact (Move.refuse s).chain

theorem moves_issueLine {l : Line} {s t : State} (h : issueLine l s = .next t) : Moves s t := by
  cases l with
  | wr n v =>
    simp only [issueLine] at h
    split at h
    · unfold writeCmd at h
      split at h
      · exact moves_mnemonic h
      · injection h with h
        exact h ▸ (Move.refuse s).chain
    · injection h with h
      exact h ▸ moves_writeReg s n v
  | rd n =>
    simp only [issueLine] at h
    injection h with h
    exact h ▸ moves_readReg s n
  | rdbTx i =>
    simp only [issueLine, State.readTxBuf] at h
    split_ifs at h <;> injection h with h <;> subst h
    · exact moves_own rfl
    · exact moves_own rfl
  | rdbRx i =>
    simp only [issueLine, State.readRxBuf] at h
    split_ifs at h <;> injection h with h <;> subst h
    · exact moves_own rfl
    · exact moves_own rfl
  | op i => exact moves_mnemonic h
  | engine e =>
    simp only [issueLine] at h
    injection h with h
    exact h ▸ moves_own (s.engineStep_own e)

theorem moves_issue {ls : List Line} {s t : State} (h : issue ls s = .next t) : Moves s t := by
  induction ls generalizing s with
  | nil =>
    injection h with h
    exact h ▸ moves_refl s
  | cons l ls ih =>
    simp only [issue] at h
    split at h
    · injection h with h
      exact h ▸ moves_queue s _
    · split at h
      · next u hu => exact (moves_issueLine hu).trans (ih h)
      · simp at h
      · simp at h

theorem moves_receiveByte (s : State) (b : Byte) : Moves s (s.receiveByte b) := by
  unfold State.receiveByte
  split
  · exact (Move.receive s b ‹_›).chain
  · exact moves_refl s

theorem moves_receiveBytes (bytes : List Byte) (s : State) : Moves s (s.receiveBytes bytes) := by
  induction bytes generalizing s with
  | nil => exact moves_refl s
  | cons b bytes ih => exact (moves_receiveByte s b).trans (ih _)

theorem moves_sendBytes (n i : Nat) (s : State) (hp : s.phase = .tx) (hi : s.txIdx.toNat = i) (h : i + n ≤ 8) :
    Moves s (s.sendBytes n) ∧ (s.sendBytes n).txIdx.toNat = i + n := by
  induction n generalizing s i with
  | zero => exact ⟨moves_refl s, hi⟩
  | succ n ih =>
    have h1 : s.sendByte.txIdx.toNat = i + 1 := by
      show (s.txIdx + 1#4).toNat = i + 1
      rw [BitVec.toNat_add, hi]; simp; omega
    obtain ⟨h2, h3⟩ := ih (i + 1) s.sendByte hp h1 (by omega)
    exact ⟨(Move.send s hp (by omega)).chain.trans h2, by rw [State.sendBytes, h3]; omega⟩

/-- Every instruction is a chain of moves. -/
theorem moves_exec {i : Instr} {s t : State} (h : exec i s = .next t) : Moves s t := by
  cases hi : i.isCommand with
  | true => exact moves_command hi h
  | false =>
    cases i <;> simp [Instr.isCommand] at hi
    case crc16 => exact moves_issue h
    case req => exact moves_issue h
    case parsebytes => exact moves_issue h
    case transact => exact moves_issue h
    case poll =>
      exact (moves_own rfl).trans (moves_issue h)
    case wait => exact moves_wait h
    case uartChar d =>
      injection h with h
      exact h ▸ moves_receiveByte s d
    case rtuResponse =>
      injection h with h
      exact h ▸ moves_receiveBytes _ s
    case rtuRequest =>
      simp only [exec, execRtuRequest] at h
      split at h
      · next ha =>
        simp only [State.aboutToSend, Bool.and_eq_true, decide_eq_true_eq] at ha
        obtain ⟨⟨hp, h0⟩, -⟩ := ha
        obtain ⟨h1, h2⟩ := moves_sendBytes 8 0 s hp (by rw [h0]; rfl) (by omega)
        have hf := State.sendBytes_frame 8 s
        generalize s.sendBytes 8 = u at h h1 h2 hf
        injection h with h
        exact h ▸ h1.trans (Move.endWrite u (by rw [hf]; exact hp) h2).chain
      · injection h with h
        exact h ▸ moves_receiveBytes _ s

theorem moves_sequencer (s : State) (linkOk : Bool) : Moves s (s.sequencerStep linkOk) := by
  unfold State.sequencerStep
  split
  · exact moves_refl s
  · split
    · exact (Move.openSucceeds s ‹_›).chain
    · exact (Move.openFails s ‹_›).chain
  · split
    · exact (Move.fatalTx s ‹_›).chain
    · split
      · exact (Move.send s ‹_› ‹_›).chain
      · split
        · exact (Move.endWrite s ‹_› ‹_›).chain
        · exact moves_refl s
  · split
    · exact (Move.fatalRx s ‹_›).chain
    · split
      · exact (Move.endRead s ‹_› ‹_›).chain
      · split
        · next h => exact (Move.readTimeout s ‹_› h.1).chain
        · exact moves_refl s
  · exact (Move.check s ‹_›).chain

theorem moves_runLine {l : Line} {s t : State} (h : runLine l s = .next t) : Moves s t := by
  cases l with
  | wr n v =>
    simp only [runLine] at h
    split at h
    · split at h
      · exact moves_exec h
      · injection h with h
        exact h ▸ (Move.refuse s).chain
    · exact moves_issueLine h
  | op i =>
    simp only [runLine] at h
    split at h
    · simp at h
    · exact moves_exec h
  | rd n => exact moves_issueLine (l := .rd n) h
  | rdbTx i => exact moves_issueLine (l := .rdbTx i) h
  | rdbRx i => exact moves_issueLine (l := .rdbRx i) h
  | engine e => exact moves_issueLine (l := .engine e) h

theorem moves_hostTurn {s t : State} (h : hostTurn s = .next t) : Moves s t := by
  unfold hostTurn at h
  split at h
  · injection h with h
    subst h
    unfold State.orLeave
    split
    · exact moves_own rfl
    · exact moves_refl s
  · next rest _ =>
    exact (moves_own rfl).trans (moves_runLine h)

/-- Every answer of the environment is a chain of moves. -/
theorem moves_event {e : Event} {s t : State} (h : runEvent e s = .next t) : Moves s t := by
  cases e with
  | host => exact moves_hostTurn h
  | tick ms =>
    injection h with h
    subst h
    refine Relation.ReflTransGen.trans ?_ (moves_sequencer _ _)
    unfold State.advanceTimer
    split
    · exact (Move.time s _ ‹_›).chain
    · exact moves_refl s
  | linkDown =>
    injection h with h
    exact h ▸ moves_sequencer s false
  | char levels =>
    simp only [runEvent, lineChar] at h
    split at h
    · exact moves_exec h
    · injection h with h
      subst h
      unfold State.receiveBadStop
      split
      · next hr =>
        refine (moves_receiveByte s _).trans (Move.badStop _ ?_).chain
        rw [State.receiveByte, if_pos hr]
        exact (s.receiving_eq_true.mp hr).1
      · exact moves_refl s
    · injection h with h
      exact h ▸ moves_refl s
  | frame kind bytes =>
    simp only [runEvent, lineFrame] at h
    split at h
    · exact moves_exec h
    · injection h with h
      exact h ▸ moves_receiveBytes bytes s
  | reset =>
    injection h with h
    exact h ▸ (Move.reset s).chain
  | selectModule m =>
    injection h with h
    exact h ▸ moves_own rfl
  | stopRequest =>
    injection h with h
    exact h ▸ moves_own s.requestStop_own

/-- Every step is a chain of moves. -/
theorem moves_step {s t : State} (h : step s = .next t) : Moves s t := by
  simp only [step, runStep] at h
  split at h
  · next e rest _ =>
    exact (moves_own rfl).trans (moves_event h)
  · split at h
    · exact (moves_own rfl).trans (moves_event h)
    · exact moves_hostTurn h

/-- What every move keeps, every step keeps. -/
theorem step_keeps {P : State → Prop} (hm : ∀ s t, P s → Move s t → P t) {s t : State} (hs : P s)
    (h : step s = .next t) : P t := by
  have hc := moves_step h
  clear h
  induction hc with
  | refl => exact hs
  | tail _ hlast ih => exact hm _ _ ih hlast

end Sys2Proof.Machine
end

