-- ==== Sys2Proof/Tests/Slice0.lean ====
section
/-! SUPPORT. Tests: expected values from spec/95_test_vectors (the vector is named at each), and a witness for each
obligation's hypotheses. -/

namespace Sys2Proof.Tests

open Sys2Proof Sys2Proof.Machine

/-! ### Helpers -/

/-- A byte string written as numbers. -/
def bytes (l : List Nat) : List Byte := l.map (BitVec.ofNat 8)

/-- The state a result holds; the reset state where it holds none. -/
def got : Result → State
  | .next s => s
  | .fault _ => State.reset
  | .refused _ => State.reset

/-- Whether a result is a next state. -/
def isNext : Result → Bool
  | .next _ => true
  | .fault _ => false
  | .refused _ => false

/-- B1: the source's time poll. -/
def frameB1 : List Byte := bytes [0x21, 0x03, 0x20, 0x00, 0x00, 0x06, 0xC9, 0x68]

/-- V3: the smallest frame. -/
def frameV3 : List Byte := bytes [0x21, 0x03, 0x00, 0x21, 0x3A]

/-- V4: the time-block response. -/
def frameV4 : List Byte := bytes
  [0x21, 0x03, 0x0C, 0x07, 0xEA, 0x00, 0x0B, 0x00, 0x0A, 0x00, 0x0E, 0x00, 0x13, 0x00, 0x00, 0x71, 0x8C]

/-- V5: a `uint32` response. -/
def frameV5 : List Byte := bytes [0x21, 0x03, 0x04, 0x00, 0x00, 0xC3, 0x50, 0x8B, 0x3D]

/-- V14: five bytes, CRC right, byte count 2. -/
def frameV14 : List Byte := bytes [0x21, 0x83, 0x02, 0xC1, 0x3B]

/-- The arguments of B1 written, nothing built. -/
def ready : State := { State.reset with slave := 0x21#8, start := 0x2000#16, count := 6#16 }

/-- B1 built in an open session (the start of X1 to X8). -/
def opened : State :=
  { ready with
    sess := .idle, baud := 9600#32, aBaud := 9600#32, txBuf := Memory.writeList [] 0 frameB1, txLen := 8#4,
    expLen := 17#9, crc := 0x68C9#16 }

/-- `opened` with these bytes in `RXBUF`. -/
def loaded (l : List Byte) : State :=
  { opened with rxBuf := Memory.writeList [] 0 l, rxLen := BitVec.ofNat 9 l.length }

/-- A transfer in `P_TX`, `n` bytes sent. -/
def sending (n : Nat) : State :=
  { opened with sess := .awaitingResponse, phase := .tx, txIdx := BitVec.ofNat 4 n }

/-- A transfer in `P_RX` with these bytes in. -/
def listening (l : List Byte) : State :=
  { loaded l with sess := .awaitingResponse, phase := .rx, txIdx := 8#4, timer := some 0 }

/-- A transfer in `P_CHECK` with these bytes in. -/
def checking (l : List Byte) : State :=
  { loaded l with sess := .awaitingResponse, phase := .check, txIdx := 8#4 }

/-- The catalog's bases of D35; the rest of a variant is not in the source. -/
def variant : CatalogBases := ⟨0x2000, 0xA731, 0xC000, 0xD000, 0xD400, 0xE000, 0xF000⟩

/-- Between the acceptance of OPEN and its step, `BAUD = 9600`. -/
def connecting : State := { ready with sess := .connecting, phase := .opening, baud := 9600#32 }

/-- A full receive buffer, quiescent. -/
def full : State := { opened with rxLen := 256#9 }

/-! ### Well-formedness: an ill-formed term for each check -/

theorem test_wf_parsebytes_256 : (Instr.parsebytes (List.replicate 256 0#8)).wellFormed = true := by decide +kernel
theorem test_wf_parsebytes_257 : (Instr.parsebytes (List.replicate 257 0#8)).wellFormed = false := by decide +kernel
theorem test_wf_response_251 : (Instr.rtuResponse 0#8 (List.replicate 251 0#8) 0#8 0#8).wellFormed = true := by decide +kernel
theorem test_wf_response_252 : (Instr.rtuResponse 0#8 (List.replicate 252 0#8) 0#8 0#8).wellFormed = false := by decide +kernel

/-! ### Decoding: words written out from 30_encoding R83 (`aaaaaaaa oooooooo`), R69, R70 and R79 -/

theorem test_decode_crcinit : decode (.cmd 0b0101010100000001#16) = .ok .crcinit := by rfl
theorem test_decode_crcbyte : decode (.cmd 0b0010000100000010#16) = .ok (.crcbyte 0x21#8) := by rfl
theorem test_decode_build : decode (.cmd 0b0000000000000011#16) = .ok .build := by rfl
theorem test_decode_rxclr : decode (.cmd 0b1111111100000100#16) = .ok .rxclr := by rfl
theorem test_decode_rxpush : decode (.cmd 0b1000101100000101#16) = .ok (.rxpush 0x8B#8) := by rfl
theorem test_decode_parse : decode (.cmd 0b0000000000000110#16) = .ok .parse := by rfl
theorem test_decode_open : decode (.cmd 0b0000000100000111#16) = .ok .openSession := by rfl
theorem test_decode_close : decode (.cmd 0b0000000000001000#16) = .ok .closeSession := by rfl
theorem test_decode_xfer : decode (.cmd 0b0000000000001001#16) = .ok .xfer := by rfl
theorem test_decode_clrerr : decode (.cmd 0b0000000000001010#16) = .ok .clrerr := by rfl
theorem test_decode_reserved : decode (.cmd 0b0001001010000000#16) = .error (.reservedOp 0x80#8) := by rfl
theorem test_decode_zero : decode (.cmd 0#16) = .error (.reservedOp 0#8) := by rfl
theorem test_decode_request : decode (.frame .request frameB1) =
    .ok (.rtuRequest 0x21#8 0x20#8 0x00#8 0x00#8 0x06#8 0xC9#8 0x68#8) := by rfl
theorem test_decode_request_function : decode (.frame .request (bytes [0x21, 0x04, 0x20, 0, 0, 6, 0x7C, 0xA8])) =
    .error .requestFunction := by rfl
theorem test_decode_request_length : decode (.frame .request frameV3) = .error .requestLength := by rfl
theorem test_decode_response : decode (.frame .response frameV5) =
    .ok (.rtuResponse 0x21#8 (bytes [0x00, 0x00, 0xC3, 0x50]) 0x8B#8 0x3D#8) := by rfl
theorem test_decode_response_function : decode (.frame .response frameV14) = .error .responseFunction := by rfl
theorem test_decode_response_count : decode (.frame .response frameB1) = .error .responseCount := by rfl
theorem test_decode_response_short : decode (.frame .response (frameV3.take 4)) = .error .responseTooShort := by rfl
/-- 0x21 on the line: start bit 0, then 1 0 0 0 0 1 0 0 (bit 0 first), then the stop bit 1. -/
theorem test_decode_char : decode (.char 0b0100001001#10) = .ok (.uartChar 0x21#8) := by rfl
theorem test_decode_char_no_stop : decode (.char 0b0100001000#10) = .error .badStopBit := by rfl
theorem test_decode_char_no_start : decode (.char 0b1100001001#10) = .error .noStartBit := by rfl

/-! Table words. -/

theorem test_table_command : decodeTableWord 16 0x2102 = some (.crcbyte 0x21#8) := by rfl
theorem test_table_request : decodeTableWord 64 0x210320000006C968 =
    some (.rtuRequest 0x21#8 0x20#8 0x00#8 0x00#8 0x06#8 0xC9#8 0x68#8) := by rfl
theorem test_table_char : decodeTableWord 10 0b0100001001 = some (.uartChar 0x21#8) := by rfl
theorem test_table_char_bytes : decodeTableWord 16 0b0100001101 = some (.uartChar 0x61#8) := by rfl
theorem test_table_reserved : decodeTableWord 16 0x1280 = none := by rfl
/-- Words {21 03}, {02 00}, {57 78}, {7D 00}, word 0 lowest (V24). -/
theorem test_table_response : decodeTableWord 56 0x7D00577802002103 =
    some (.rtuResponse 0x21#8 (bytes [0x00, 0x57]) 0x78#8 0x7D#8) := by rfl
theorem test_fetch_command : (got (step (State.reset.withFetchWord 16 0x2102))).crc = 0x587F#16 := by decide
theorem test_fetch_request : isNext (step (State.reset.withFetchWord 64 0x210320000006C968)) = true := by decide

/-! ### CRC16 unit (95 sections 2.1, 2.2, 2.3) -/

theorem test_crc_step_21 : crcStep 0xFFFF#16 0x21#8 = 0x587F#16 := by decide
theorem test_crc_step_logical : crcStep 0x8000#16 0x00#8 = 0x0080#16 := by decide
theorem test_crc_step_arbitrary : crcStep 0x1234#16 0x56#8 = 0xE993#16 := by decide
theorem test_crc_empty : crc16 [] = 0xFFFF#16 := by decide
theorem test_crc_check : crc16 (bytes [0x31, 0x32, 0x33, 0x34, 0x35, 0x36, 0x37, 0x38, 0x39]) = 0x4B37#16 := by decide +kernel
theorem test_crc_s1 : crc16 (frameB1.take 6) = 0x68C9#16 := by decide +kernel
theorem test_crcinit : (got (exec .crcinit { State.reset with crc := 0x1234#16 })).crc = 0xFFFF#16 := by decide
theorem test_crcinit_busy : (got (exec .crcinit (sending 0))).status = 0x020F#16 := by decide
theorem test_crcbyte : (got (exec (.crcbyte 0x21#8) State.reset)).crc = 0x587F#16 := by decide
/-- 2.3: without the restore after a BUILD of S1. -/
theorem test_crcbyte_after_build : (got (exec (.crcbyte 0x03#8) opened)).crc = 0x57E8#16 := by decide
theorem test_crc16 : (got (exec (.crc16 (frameB1.take 6)) State.reset)).trace = [.reg 3#4 0x68C9#32] := by decide +kernel

/-! ### Frame codec (95 sections 3 and 4) -/

/-- B1. -/
theorem test_build_bytes : (got (exec .build ready)).txBytes 8 = frameB1 := by decide +kernel
/-- B11. -/
theorem test_build_largest : (got (exec .build { ready with start := 0#16, count := 125#16 })).expLen = 255#9 := by decide
/-- B19: all sixteen bits of COUNT are compared. -/
theorem test_build_refused : exec .build { ready with count := 0x0100#16 } =
    .next { ready with count := 0x0100#16, cmdErr := true } := by rfl
/-- B10 through REQ, with the bits above the registers' widths dropped (section 3, below the table). -/
theorem test_req : (got (exec (.req 0x121#32 0x03#32 0x11234#32 0x1000F#32) State.reset)).txBytes 8 =
    bytes [0x21, 0x03, 0x12, 0x34, 0x00, 0x0F, 0x46, 0x18] := by decide +kernel
/-- P5. -/
theorem test_req_refused : (got (exec (.req 0x21#32 3#32 0#32 126#32) State.reset)).status = 0x0008#16 := by decide
theorem test_rxclr : ((got (exec .rxclr (loaded frameV4))).rxLen, (got (exec .rxclr (loaded frameV4))).rxByte 0) =
    (0#9, 0x21#8) := by decide
theorem test_rxpush : (got (exec (.rxpush 0x21#8) State.reset)).rxBytes 1 = bytes [0x21] := by decide
theorem test_rxpush_full : exec (.rxpush 0x21#8) full = .next { full with cmdErr := true } := by rfl
/-- V4. -/
theorem test_parse_v4 : (got (exec .parse (loaded frameV4))).accepted = true := by decide +kernel
/-- V6: CRC bytes high first. -/
theorem test_parse_v6 : (got (exec .parse (loaded (bytes [0x21, 3, 4, 0, 0, 0xC3, 0x50, 0x3D, 0x8B])))).result =
    .error .crcMismatch := by decide +kernel
/-- V14. -/
theorem test_parsebytes_v14 : (got (exec (.parsebytes frameV14) opened)).trace = [.reg 2#4 4#32, .reg 13#4 0#32] := by
  decide +kernel
/-- V5 against B1: the count differs. -/
theorem test_parsebytes_v5 : (got (exec (.parsebytes frameV5) opened)).status = 0x00C2#16 := by decide +kernel

/-! ### Transceiver (95 section 5) -/

/-- T9. -/
theorem test_open_status : (got (exec .openSession ready)).status = 0x0005#16 := by decide
/-- T4. -/
theorem test_open_refused : (got (exec .openSession opened)).status = 0x000A#16 := by decide
/-- T2. -/
theorem test_open_succeeds : (got (step (connecting.eventNext (.tick 0)))).status = 0x0002#16 := by decide
/-- 42 R124 (c): a failed OPEN leaves the flags of the verdict before it (P2's end state, with `BAUD` 0). -/
theorem test_open_fails_keeps_flags :
    (got (step (State.eventNext { got (exec .parse (loaded frameV4)) with
      sess := .connecting, phase := .opening, baud := 0#32 } (.tick 0)))).status = 0x01C0#16 := by decide +kernel
/-- T1. -/
theorem test_open_fails : (got (step (State.eventNext { connecting with baud := 0#32 } (.tick 0)))).result =
    .error .fatal := by decide
/-- T6. -/
theorem test_close : (got (exec .closeSession opened)).status = 0x0000#16 := by decide
/-- T7. -/
theorem test_close_closed : exec .closeSession ready = .next ready := by rfl
/-- T8. -/
theorem test_clrerr : (got (exec .clrerr { opened with cmdErr := true, fErr := true, tmo := true })).status =
    0x0022#16 := by decide
/-- 5.3, the acceptance. -/
theorem test_xfer_status : (got (exec .xfer (loaded frameV4))).status = 0x0207#16 := by decide
/-- X14. -/
theorem test_xfer_nothing_built : (got (exec .xfer { opened with txLen := 0#4 })).status = 0x000A#16 := by decide
theorem test_send : (got (step ((sending 6).eventNext (.tick 0)))).hist = [.txByte 0xC9#8] := by decide
theorem test_end_of_write : (got (step ((sending 8).eventNext (.tick 0)))).status = 0x0007#16 := by decide
/-- X7. -/
theorem test_fatal_tx : (got (step ((sending 3).eventNext .linkDown))).hist =
    [.log .tx (bytes [0x21, 0x03, 0x20]), .fatal] := by decide
/-- R203: the last byte and the end of the budget together: the read is complete. -/
theorem test_complete_before_timeout : (got (step ((listening frameV4).eventNext (.tick 1000)))).phase = .check := by
  decide
/-- X6. -/
theorem test_timeout : (got (step ((listening (frameV4.take 5)).eventNext (.tick 1000)))).status = 0x0022#16 := by decide
theorem test_no_timeout_yet : (got (step ((listening (frameV4.take 5)).eventNext (.tick 999)))).timer = some 999 := by
  decide
/-- X1, its last step. -/
theorem test_validate : (got (step ((checking frameV4).eventNext (.tick 0)))).status = 0x01C2#16 := by decide +kernel
/-- X18. -/
theorem test_busy_refusal : (got (exec .closeSession (listening []))).status = 0x000F#16 := by decide

/-! ### The line -/

theorem test_uart_char : (got (exec (.uartChar 0x0C#8) (listening (bytes [0x21, 0x03])))).rxBytes 3 =
    bytes [0x21, 0x03, 0x0C] := by decide
theorem test_uart_char_bad_stop : (got (step ((listening []).eventNext (.char 0b0100001000#10)))).status =
    0x0017#16 := by decide
theorem test_response : (got (exec (.rtuResponse 0x21#8 (frameV5.drop 3 |>.take 4) 0x8B#8 0x3D#8) (listening []))).hist =
    frameV5.map .rxByte := by decide
theorem test_response_idle : exec (.rtuResponse 0x21#8 [] 0x21#8 0x3A#8) opened = .next opened := by rfl
theorem test_request_sent :
    (got (exec (.rtuRequest 0x21#8 0x20#8 0#8 0#8 6#8 0xC9#8 0x68#8) (sending 0))).hist =
      frameB1.map .txByte ++ [.log .tx frameB1] := by decide

/-! ### The host's program -/

theorem test_wait_busy : (got (exec .wait (sending 0))).prog = [.op .wait] := by decide
theorem test_wait_idle : (got (exec .wait opened)).trace = [.reg 1#4 0x0002#32] := by decide
theorem test_transact : (got (exec (.transact 0x21#32 3#32 0x2000#32 6#32) { opened with txBuf := [] })).status =
    0x0207#16 := by decide
theorem test_transact_closed : (got (exec (.transact 0x21#32 3#32 0x2000#32 6#32) State.reset)).status = 0x0008#16 := by
  decide
theorem test_poll : (got (exec (.poll 0x21#32 3#32 0x2000#32 6#32 2) opened)).prog =
    [.op .wait, .engine (.pollCheck 0x2000#32 .registers 2)] := by decide
/-- 7.2, first row: an accepted answer of the time block, 2026-11-10 14:19:00. -/
theorem test_poll_value :
    ((got (step ((got (exec .parse (loaded frameV4))).hostNext
      (.engine (.pollCheck 0x2000#32 (.fields (timeFamily variant).fields) 2))))).hostEvents.map fun e =>
        match e with
        | .value start values => (start, values.map fun r => (r.key, r.address, r.value))
        | _ => (0#32, [])) =
    [(0x2000#32, [(.year, 0x2000, .ok (.uint16 2026)), (.month, 0x2001, .ok (.uint16 11)),
      (.day, 0x2002, .ok (.uint16 10)), (.hour, 0x2003, .ok (.uint16 14)), (.minute, 0x2004, .ok (.uint16 19)),
      (.second, 0x2005, .ok (.uint16 0))])] := by decide +kernel
/-- 43 R174: a silent attempt with one retry left. -/
theorem test_poll_retry : (got (step (State.hostNext { opened with result := .error .timeout }
    (.engine (.pollCheck 0x2000#32 .registers 1))))).retries = 1 := by decide
/-- 43 R160, R182: the item of the module total voltage with module 3 selected (S8). -/
theorem test_item_address :
    (got (step (State.hostNext { opened with worker := { opened.worker with selected := 2 } }
      (.engine (.item (batteryBlockItem variant)))))).prog.getD 2 (.rd 0#4) = .wr 6#4 0xA7B1#32 := by decide
/-- 95 7.3: the stop shrinks the timeout at once. -/
theorem test_stop_request :
    (got (step (State.eventNext { listening [] with
      worker := { opened.worker with params := { opened.worker.params with stopTimeout := 30#32 } } } .stopRequest))).prog =
    [.wr 9#4 30#32] := by decide
/-- 2.3: the low sixteen bits are kept. -/
theorem test_write_crc : (got (step (State.reset.hostNext (.wr 3#4 0xABCDE#32)))).crc = 0xBCDE#16 := by decide
/-- 7.1. -/
theorem test_write_status : (got (step (State.reset.hostNext (.wr 1#4 5#32)))).status = 0x0008#16 := by decide
theorem test_read_timeout : (got (step (State.reset.hostNext (.rd 9#4)))).trace = [.reg 9#4 1000#32] := by decide
/-- 7.1: bits above 15 of a command are dropped. -/
theorem test_wide_command : (got (step (State.hostNext { ready with crc := 0#16 } (.wr 0#4 0x10001#32)))).crc =
    0xFFFF#16 := by decide

/-! ### The typed decoder and the catalog (95 sections 1 and 6) -/

theorem test_int16 : decodeInt16 (bytes [0xFF, 0xF6]) = .ok (-10) := by rfl
theorem test_int32 : decodeInt32 (bytes [0xFF, 0xFF, 0xFF, 0x83]) = .ok (-125) := by rfl
theorem test_uint32 : decodeUint32 (bytes [0x00, 0x00, 0xC3, 0x50]) = .ok 50000 := by rfl
theorem test_ascii : decodeAscii 3 (bytes [0x41, 0x42, 0x20, 0x43, 0x20, 0x00]) = .ok (bytes [0x41, 0x42, 0x20, 0x43]) := by
  rfl
/-- S8. -/
theorem test_address : familyAddress (voltageFamily variant) 3 1 = some 0xA7B1 := by decide
/-- 43 R161: indexes start at 1 and end at 32. -/
theorem test_address_range :
    (familyAddress (voltageFamily variant) 0 1, familyAddress (voltageFamily variant) 33 1) = (none, none) := by decide
/-- 95 section 6: the address is not wrapped. -/
theorem test_catalog : checkCatalog [] [moduleFamily 0xFFF1 0x40 .soc .uint16 .unit] = .error (.outOfRange 0x10031) := by
  rfl
/-- 43 R168, R169. -/
theorem test_severity : ([0, 1, 2, 3].map fun n => severityOf ⟨.lithiumAbnormal, 0, n⟩,
    severityOf ⟨.ofModule .overvoltage, 0, 2⟩) = ([.normal, .fault, .protection, .commFail], .fault) := by decide

/-! ### Witnesses: for each obligation with hypotheses, states and operands that meet them, each clause at a bound -/

/-- A request of `COUNT = n` registers as registers alone. -/
def counted (n : Nat) : State := { ready with count := BitVec.ofNat 16 n }

/-- A transfer in `P_RX` that awaits 256 bytes and has 255. -/
def almostFull : State := { listening [] with rxLen := 255#9, expLen := 256#9 }

/-- No request built, no session. -/
def closed : State := State.reset

theorem witness_CrcTableFormResidueAndDifferences :
    [0x21#8].length = [0x01#8].length ∧ [0x20#8].length = [0x00#8].length ∧
    List.zipWith (· ^^^ ·) [0x21#8] [0x01#8] = List.zipWith (· ^^^ ·) [0x20#8] [0x00#8] := by decide

theorem witness_CrcCommandsWriteTheAccumulatorAlone : opened.busy = false ∧ (sending 0).busy = true := by decide

theorem witness_Crc16ReturnsTheCrcOfItsBytes : opened.busy = false := by decide

theorem witness_BuildWritesTheRequestOrIsRefused :
    (opened.busy = false ∧ opened.count.toNat ≤ 125) ∧ ((counted 125).busy = false ∧ (counted 125).count.toNat ≤ 125) ∧
    125 < (counted 126).count.toNat ∧ (listening []).busy = true := by decide

theorem witness_RxclrAndRxpushFillTheReceiveBuffer :
    (closed.busy = false ∧ closed.rxLen.toNat < 256) ∧
    (State.busy { full with rxLen := 255#9 } = false ∧ State.rxLen { full with rxLen := 255#9 } = 255#9) ∧
    full.rxLen.toNat = 256 ∧ (sending 8).busy = true := by decide

theorem witness_ParseOfFewerThanFiveBytesIsTooShort :
    ((loaded (frameV3.take 4)).busy = false ∧ (loaded (frameV3.take 4)).rxLen.toNat < 5) ∧
    (closed.busy = false ∧ closed.rxLen.toNat < 5) ∧ (listening []).busy = true := by decide

theorem witness_ParseComparesTheTrailingCrc :
    ((loaded frameV3).busy = false ∧ (loaded frameV3).rxLen.toNat = 0 + 5) ∧
    (full.busy = false ∧ full.rxLen.toNat = 251 + 5) := by decide

/-- V6: the verdict CrcMismatch. -/
theorem witness_ParseComparesTheTrailingCrc_mismatch :
    (got (exec .parse (loaded (bytes [0x21, 3, 4, 0, 0, 0xC3, 0x50, 0x3D, 0x8B])))).result = .error .crcMismatch := by
  decide +kernel

/-- V14 (byte count 2, length 5) and V3 (byte count 0, length 5). -/
theorem witness_ParseComparesTheByteCount :
    ((loaded frameV14).busy = false ∧ (loaded frameV14).rxLen.toNat = 0 + 5 ∧
      pair ((loaded frameV14).rxByte (0 + 4)) ((loaded frameV14).rxByte (0 + 3)) =
        crc16 ((loaded frameV14).rxBytes (0 + 3)) ∧ ((loaded frameV14).rxByte 2).toNat ≠ 0) ∧
    ((loaded frameV3).busy = false ∧ (loaded frameV3).rxLen.toNat = 0 + 5 ∧
      pair ((loaded frameV3).rxByte (0 + 4)) ((loaded frameV3).rxByte (0 + 3)) =
        crc16 ((loaded frameV3).rxBytes (0 + 3)) ∧ ((loaded frameV3).rxByte 2).toNat = 0) := by decide +kernel

/-- V5 validates against B1; V14 does not validate; nothing built. -/
theorem witness_MatchFlagsCompareWithTheBuiltRequest :
    (loaded frameV5).busy = false ∧
    ((got (exec .parse (loaded frameV5))).result = .ok ∧ (loaded frameV5).txLen = 8#4) ∧
    (got (exec .parse (loaded frameV14))).result ≠ .ok ∧
    State.busy { loaded frameV5 with txLen := 0#4 } = false ∧ State.txLen { loaded frameV5 with txLen := 0#4 } ≠ 8#4 := by
  decide +kernel

theorem witness_ParsebytesLoadsItsBytesAndValidatesThem :
    opened.busy = false ∧ ([] : List Byte).length ≤ 256 ∧ (List.replicate 256 0x55#8).length ≤ 256 := by decide +kernel

theorem witness_ParsebytesRecoversThePayload :
    opened.busy = false ∧ ([] : List Byte).length ≤ 251 ∧ (List.replicate 251 0x55#8).length ≤ 251 := by decide +kernel

/-- V5, its first bit and its last. -/
theorem witness_SingleBitFlipFailsWithCrcMismatch :
    opened.busy = false ∧ (bytes [0, 0, 0xC3, 0x50]).length ≤ 251 ∧
    frameV5 = withCrc (0x21#8 :: 3#8 :: BitVec.ofNat 8 4 :: bytes [0, 0, 0xC3, 0x50]) ∧
    0 < frameV5.length ∧ 8 < frameV5.length ∧ 7 < 8 := by decide +kernel

theorem witness_ReqBuildsTheRequestOfItsOperands :
    opened.busy = false ∧ (125#32 : Word32).setWidth 16 = 125#16 ∧ ((125#32 : Word32).setWidth 16).toNat ≤ 125 ∧
    125 < ((126#32 : Word32).setWidth 16).toNat := by decide

theorem witness_OpenConnectsInOneStep :
    (ready.busy = false ∧ ready.sess = .disconnected) ∧ (sending 0).busy = true ∧ opened.sess ≠ .disconnected ∧
    (connecting.phase = .opening ∧ connecting.baud ≠ 0#32) ∧
    (State.phase { connecting with baud := 0#32 } = .opening ∧ State.baud { connecting with baud := 0#32 } = 0#32) := by
  decide

theorem witness_CloseAndClrerrWriteTheirFieldsAlone : opened.busy = false ∧ connecting.busy = true := by decide

theorem witness_XferStartsSending :
    (opened.busy = false ∧ opened.sess = .idle ∧ opened.txLen = 8#4) ∧ (sending 0).busy = true ∧ ready.sess ≠ .idle ∧
    ready.txLen ≠ 8#4 := by decide

theorem witness_SendingSteps :
    (sending 0).phase = .tx ∧ (sending 0).txIdx.toNat < 8 ∧ (sending 7).phase = .tx ∧ (sending 7).txIdx.toNat < 8 ∧
    (sending 8).phase = .tx ∧ (sending 8).txIdx.toNat = 8 := by decide

/-- At 1000 and 999 milliseconds against `TIMEOUT = 1000`. -/
theorem witness_ReceivePhaseEnds :
    ((listening frameV4).phase = .rx ∧ (listening frameV4).rxLen = (listening frameV4).expLen) ∧
    ((listening []).phase = .rx ∧ (listening []).rxLen.toNat < (listening []).expLen.toNat ∧
      (listening []).timeout.toNat ≤ (listening []).timer.getD 0 + 1000 ∧
      (listening []).timer.getD 0 + 999 < (listening []).timeout.toNat) := by decide

theorem witness_ValidateStepGivesTheParseVerdict :
    (checking frameV4).phase = .check ∧ (Event.linkDown = .linkDown ∨ ∃ ms, Event.linkDown = .tick ms) ∧
    (Event.tick 0 = .linkDown ∨ ∃ ms, Event.tick 0 = .tick ms) := ⟨rfl, .inl rfl, .inr ⟨0, rfl⟩⟩

theorem witness_XferWithFatalError :
    opened.phase = .idle ∧ opened.sess = .idle ∧ opened.txLen = 8#4 ∧ 0 ≤ 8 ∧ 8 ≤ 8 ∧
    ([] : List Byte).length < opened.expLen.toNat ∧ (frameV4.take 16).length < opened.expLen.toNat ∧
    opened.expLen.toNat ≤ 256 := by decide

theorem witness_XferWithShortAnswerTimesOut :
    opened.phase = .idle ∧ opened.sess = .idle ∧ opened.txLen = 8#4 ∧ ([] : List Byte).length < opened.expLen.toNat ∧
    (frameV4.take 16).length < opened.expLen.toNat ∧ opened.expLen.toNat ≤ 256 ∧ opened.timeout.toNat ≤ 1000 := by decide

theorem witness_XferWithFullAnswerGivesTheParsebytesVerdict :
    opened.phase = .idle ∧ opened.sess = .idle ∧ opened.txLen = 8#4 ∧ frameV4.length = opened.expLen.toNat ∧
    opened.expLen.toNat ≤ 256 := by decide

theorem witness_RequestFramePassesOnTheLine :
    ((sending 0).phase = .tx ∧ (sending 0).txIdx = 0#4 ∧
      (sending 0).txBytes 8 = requestBytes 0x21#8 0x20#8 0#8 0#8 6#8 0xC9#8 0x68#8) ∧
    (opened.receiving = false ∧ opened.phase ≠ .tx) ∧ ((sending 1).receiving = false ∧ (sending 1).txIdx ≠ 0#4) ∧
    ((sending 0).receiving = false ∧
      (sending 0).txBytes 8 ≠ requestBytes 0x22#8 0x20#8 0#8 0#8 6#8 0xC9#8 0x68#8) := by decide

/-- The exception frame V14, which decodes to nothing (30_encoding R77); V5 whole into an empty buffer; into a buffer already
full, nothing; a request frame, cut at the length. -/
theorem witness_FramesAreReceivedUpToTheExpectedLength :
    (decode (.frame .response frameV14) = .error .responseFunction ∧ (listening []).phase = .rx ∧
      5 = min frameV14.length ((listening []).expLen.toNat - (listening []).rxLen.toNat)) ∧
    (encode (.rtuResponse 0x21#8 (bytes [0, 0, 0xC3, 0x50]) 0x8B#8 0x3D#8) = some (.frame .response frameV5) ∧
      (listening []).phase = .rx ∧ (listening []).rxLen.toNat ≤ (listening []).expLen.toNat ∧
      (listening []).expLen.toNat ≤ 256 ∧
      9 = min frameV5.length ((listening []).expLen.toNat - (listening []).rxLen.toNat)) ∧
    ((listening frameV4).phase = .rx ∧ (listening frameV4).rxLen.toNat ≤ (listening frameV4).expLen.toNat ∧
      0 = min frameV5.length ((listening frameV4).expLen.toNat - (listening frameV4).rxLen.toNat)) ∧
    (encode (.rtuRequest 0x21#8 0x20#8 0#8 0#8 6#8 0xC9#8 0x68#8) = some (.frame .request frameB1) ∧
      almostFull.phase = .rx ∧ almostFull.rxLen.toNat ≤ almostFull.expLen.toNat ∧ almostFull.expLen.toNat ≤ 256 ∧
      1 = min frameB1.length (almostFull.expLen.toNat - almostFull.rxLen.toNat)) := by decide

theorem witness_CharacterIsReceived :
    ((listening []).phase = .rx ∧ (listening []).rxLen.toNat < (listening []).expLen.toNat ∧
      (listening []).rxLen.toNat < 256) ∧
    (almostFull.phase = .rx ∧ almostFull.rxLen.toNat < almostFull.expLen.toNat ∧ almostFull.rxLen.toNat < 256) := by decide

/-- Idle, sending, and in `P_RX` with all bytes in. -/
theorem witness_LineIsIgnoredOutsideTheReceivePhase :
    (opened.receiving = false ∧ opened.phase = .idle) ∧ opened.phase ≠ .tx ∧ (sending 0).receiving = false ∧
    (listening frameV4).receiving = false ∧
    decode (.frame .request frameV3) = .error .requestLength := by
  refine ⟨?_, ?_, ?_, ?_, rfl⟩ <;> decide

theorem witness_RegisterWritesKeepTheLowBits :
    opened.busy = false ∧ (1#4 : RegNum).toNat ∈ [1, 2, 10, 11, 12, 13, 14, 15] ∧
    (15#4 : RegNum).toNat ∈ [1, 2, 10, 11, 12, 13, 14, 15] := by decide

/-- `TXLEN` at any time, `CRC` outside `P_CHECK`, `RESULT` in `P_CHECK`. -/
theorem witness_RegisterReadsChangeNothing :
    ((10#4 : RegNum), opened.txLen.setWidth 32) ∈ [(10#4, opened.txLen.setWidth 32)] ∧ opened.phase ≠ .check ∧
    (checking frameV4).phase = .check ∧ (2#4 : RegNum) ≠ 3#4 := by decide

/-- The last byte held and the first one not, of each buffer; the first index outside. -/
theorem witness_BufferReadsReturnTheBytes :
    (7 < 8 ∧ 7 < opened.txLen.toNat ∧ opened.txBuf.read 7 = some 0x68#8) ∧
    (16 < 256 ∧ 16 < (loaded frameV4).rxLen.toNat ∧ (loaded frameV4).rxBuf.read 16 = some 0x8C#8) ∧
    (0 < 8 ∧ closed.txLen.toNat ≤ 0) ∧ (17 < 256 ∧ (loaded frameV4).rxLen.toNat ≤ 17) ∧ 8 ≤ 8 ∧ 256 ≤ 256 := by decide

theorem witness_BusyRefusesAllButTimeoutAndReads :
    (listening []).busy = true ∧ Instr.closeSession.isCommand = true ∧ (8#4 : RegNum) ≠ 9#4 ∧ 7 < 8 ∧ 255 < 256 := by
  decide

/-- A reserved operation refused, CLOSE not refused. -/
theorem witness_TheListOfRefusalsIsComplete :
    (isPortAction (.wr 0#4 0x0B#32) = true ∧
      step (opened.hostNext (.wr 0#4 0x0B#32)) = .next (got (step (opened.hostNext (.wr 0#4 0x0B#32)))) ∧
      actionRefused (.wr 0#4 0x0B#32) opened = true) ∧
    (isPortAction (.op .closeSession) = true ∧
      step (opened.hostNext (.op .closeSession)) = .next (got (step (opened.hostNext (.op .closeSession)))) ∧
      actionRefused (.op .closeSession) opened = false ∧ opened.cmdErr = false) := ⟨⟨rfl, rfl, rfl⟩, rfl, rfl, rfl, rfl⟩

theorem witness_WaitReadsStatusUntilQuiescent : opened.busy = false ∧ connecting.busy = true := by decide

theorem witness_PseudoOperationsIssuedWhileBusyWait : (sending 0).busy = true := by decide

theorem witness_TransactBuildsAndStartsTheTransfer :
    (opened.busy = false ∧ ((125#32 : Word32).setWidth 16).toNat ≤ 125 ∧ opened.sess = .idle) ∧
    (closed.busy = false ∧ closed.sess ≠ .idle) ∧
    (got (exec (.req 0x21#32 3#32 0#32 126#32) opened)).txLen = 8#4 ∧
    (got (exec (.req 0x21#32 3#32 0#32 126#32) { opened with txLen := 0#4 })).txLen ≠ 8#4 := by decide

theorem witness_PollBuildsAndStartsItsFirstAttempt :
    (opened.busy = false ∧ opened.sess = .idle ∧ ((125#32 : Word32).setWidth 16).toNat ≤ 125) ∧
    (closed.busy = false ∧ closed.sess ≠ .idle) ∧
    (got (exec (.req 0x21#32 3#32 0#32 126#32) opened)).txLen = 8#4 ∧
    (got (exec (.req 0x21#32 3#32 0#32 126#32) { opened with txLen := 0#4 })).txLen ≠ 8#4 := by decide

/-- `opened` with a stop requested. -/
def stopped : State := { opened with worker := { opened.worker with stopping := true } }

/-- After a dead link, after V4, after V5 (count differs); without and with a stop requested. -/
theorem witness_PollDecisionFollowsTheResult :
    (got (exec .parse (loaded frameV4))).worker.stopping = false ∧
    (got (exec .parse (loaded frameV5))).worker.stopping = false ∧
    (stopped.worker.stopping = true ∧ stopped.result ≠ .error .fatal) ∧
    State.result { opened with result := .error .fatal } = .error .fatal ∧
    ((got (exec .parse (loaded frameV4))).result = .ok ∧ (got (exec .parse (loaded frameV4))).slvOk = true ∧
      (got (exec .parse (loaded frameV4))).funOk = true ∧ (got (exec .parse (loaded frameV4))).cntOk = true) ∧
    ((got (exec .parse (loaded frameV5))).result ≠ .error .fatal ∧
      ¬((got (exec .parse (loaded frameV5))).result = .ok ∧ (got (exec .parse (loaded frameV5))).slvOk = true ∧
        (got (exec .parse (loaded frameV5))).funOk = true ∧ (got (exec .parse (loaded frameV5))).cntOk = true)) := by
  decide +kernel

theorem witness_PollRetriesUntilTheAnswerIsAccepted :
    opened.phase = .idle ∧ opened.sess = .idle ∧ opened.txLen = 8#4 ∧ 0 < opened.expLen.toNat ∧
    opened.expLen.toNat ≤ 256 ∧ frameV4.length = opened.expLen.toNat ∧ opened.timeout.toNat ≤ 1000 ∧ 2 ≤ 2 ∧
    opened.worker.stopping = false ∧
    isNext (exec (.parsebytes frameV4) opened) = true ∧ (got (exec (.parsebytes frameV4) opened)).accepted = true := by
  decide +kernel

theorem witness_PollGivesUpAfterTheRetryLimit :
    opened.phase = .idle ∧ opened.sess = .idle ∧ opened.txLen = 8#4 ∧ 0 < opened.expLen.toNat ∧
    opened.expLen.toNat ≤ 256 ∧ opened.timeout.toNat ≤ 1000 ∧ opened.worker.stopping = false := by decide

theorem witness_EngineRunsItsScheduleUntilStopped :
    (opened.worker.stopping = false ∧ opened.prog = []) ∧ (stopped.worker.stopping = true ∧ stopped.prog = []) ∧
    opened.sess = .idle ∧ ready.sess ≠ .idle ∧
    EngineStep.nextSweep ∈ [EngineStep.item (batteryBlockItem variant), .nextSweep, .pause 100] := by decide

/-- A silent read 200 milliseconds in, the shortened timeout 30 (95 7.3). -/
def blocked : State :=
  { listening [] with
    timer := some 200, prog := [.op .wait, .engine (.pollCheck 0x2000#32 .registers 2)]
    worker := { opened.worker with params := { opened.worker.params with stopTimeout := 30#32 } } }

theorem witness_StopEndsABlockedRead :
    blocked.phase = .rx ∧ blocked.rxLen.toNat < blocked.expLen.toNat ∧ blocked.worker.stopping = false ∧
    blocked.worker.params.stopTimeout.toNat ≤ blocked.timer.getD 0 + 0 ∧
    blocked.prog = .op .wait :: .engine (.pollCheck 0x2000#32 .registers 2) :: [] := by decide

theorem witness_DecodeOfEncodeIsTheInstruction :
    ((Instr.rtuResponse 0x21#8 (List.replicate 251 0x55#8) 0x3C#8 0x43#8).wellFormed = true ∧
      encode (.rtuResponse 0x21#8 (List.replicate 251 0x55#8) 0x3C#8 0x43#8) =
        some (.frame .response (responseBytes 0x21#8 (List.replicate 251 0x55#8) 0x3C#8 0x43#8))) ∧
    ((Instr.crcbyte 0xFF#8).wellFormed = true ∧ encode (.crcbyte 0xFF#8) = some (.cmd 0xFF02#16)) := by decide +kernel

theorem witness_EveryDecodedCodeIsAnEncoding :
    decode (.frame .response frameV5) = .ok (.rtuResponse 0x21#8 (bytes [0, 0, 0xC3, 0x50]) 0x8B#8 0x3D#8) ∧
    decode (.char 0b0100001001#10) = .ok (.uartChar 0x21#8) ∧ decode (.cmd 0x2102#16) = .ok (.crcbyte 0x21#8) ∧
    loByte 0x2102#16 = 0x02#8 ∧ loByte 0x2105#16 = 0x05#8 := ⟨rfl, rfl, rfl, rfl, rfl⟩

theorem witness_ReservedOperationCodesAreRefused :
    loByte 0x5500#16 = 0x00#8 ∧ 0x0B ≤ (loByte 0x000B#16).toNat ∧ 0x0B ≤ (loByte 0xFFFF#16).toNat := by decide

theorem witness_StepRunsTheDecodedInstruction :
    decode (.cmd ((0x12102#32 : Word32).setWidth 16)) = .ok (.crcbyte 0x21#8) ∧ (Instr.crc16 []).isWire = false ∧
    decode (.frame .request frameB1) = .ok (.rtuRequest 0x21#8 0x20#8 0#8 0#8 6#8 0xC9#8 0x68#8) ∧
    decode (.char 0b0100001001#10) = .ok (.uartChar 0x21#8) ∧
    decodeTableWord 16 0x2102 = some (.crcbyte 0x21#8) := ⟨rfl, rfl, rfl, rfl, rfl⟩

/-- One instruction of each group. -/
theorem witness_OnlyStoringInstructionsChangeTheBuffers :
    exec .crcinit opened = .next (got (exec .crcinit opened)) ∧
    exec .build ready = .next (got (exec .build ready)) ∧
    exec (.rxpush 0x21#8) opened = .next (got (exec (.rxpush 0x21#8) opened)) := ⟨rfl, rfl, rfl⟩

/-- A byte of a running answer. -/
theorem witness_StepKeepsTheBuffersCanonical :
    (listening (frameV4.take 2)).memWf = true ∧
    isNext (step ((listening (frameV4.take 2)).eventNext (charEvent 0x0C#8))) = true := by decide

/-- The invariant holds of a transfer that has two bytes in. -/
theorem witness_StepKeepsTheInvariant :
    (listening (frameV4.take 2)).Inv ∧
    isNext (step ((listening (frameV4.take 2)).eventNext (charEvent 0x0C#8))) = true :=
  ⟨{ memWf := by decide
     session := by decide
     timer := by decide
     built := .inr (by decide)
     request := fun _ => ⟨by decide, by decide +kernel⟩
     rxLen := by decide
     received := by decide
     transaction := by decide
     sending := by decide
     receiving := by decide
     checking := by decide
     noResult := by decide
     noVerdict := by decide }, by decide⟩

/-- The invariant does not see the script: the same state with its next answer in front meets it. -/
theorem witness_SessionMovesOnlyAlongItsTransitions :
    ((listening (frameV4.take 2)).eventNext .linkDown).Inv ∧
    (got (step ((listening (frameV4.take 2)).eventNext .linkDown))).sess = .disconnected :=
  ⟨{ memWf := by decide
     session := by decide
     timer := by decide
     built := .inr (by decide)
     request := fun _ => ⟨by decide, by decide +kernel⟩
     rxLen := by decide
     received := by decide
     transaction := by decide
     sending := by decide
     receiving := by decide
     checking := by decide
     noResult := by decide
     noVerdict := by decide }, by decide⟩

/-- RXCLR; a sequencer step; the host's turn with a register write, with a command word of RXCLR, with no line left. -/
theorem witness_StickyFlagsStayUntilClrerrOrReset :
    (Instr.rxclr ≠ .clrerr ∧ exec .rxclr full.refuse = .next (got (exec .rxclr full.refuse)) ∧
      full.refuse.cmdErr = true) ∧
    (Event.tick 0 ≠ .host ∧ Event.tick 0 ≠ .reset ∧
      isNext (step (State.eventNext { sending 0 with fErr := true } (.tick 0))) = true) ∧
    (some (Line.wr 4#4 5#32) ≠ some (.op .clrerr) ∧ some (Line.wr 0#4 4#32) ≠ some (.op .clrerr) ∧
      loByte ((4#32 : Word32).setWidth 16) ≠ 0x0A#8 ∧ full.refuse.prog.head? = none ∧
      isNext (step (State.eventNext { full.refuse with prog := [.wr 0#4 4#32] } .host)) = true) :=
  ⟨⟨by decide, rfl, rfl⟩, ⟨by decide, by decide, by decide⟩, by decide, by decide, by decide, rfl, by decide⟩

theorem witness_RequestAndRegistersAreFrozenWhileBusy :
    (sending 0).busy = true ∧ (sending 0).phase ≠ .check ∧ Event.host ≠ .reset ∧
    isNext (step (State.eventNext { sending 0 with prog := [.wr 4#4 5#32] } .host)) = true := by decide

/-- A silent transfer with the whole read budget in its next answer. -/
def fairStart : State := (listening []).eventNext (.tick 1000)

/-- The run from `fairStart`: the timeout, then nothing. -/
def fairRun : Nat → State
  | 0 => fairStart
  | _ + 1 => got (step fairStart)

theorem fairRun_fair : FairRun fairRun where
  run n := by
    cases n with
    | zero => rfl
    | succ n => rfl
  sequencer n h := absurd (h (n + 1) (Nat.le_succ n)) (by
    show (got (step fairStart)).busy ≠ true
    decide)
  timeout n h := absurd (h (n + 1) (Nat.le_succ n)).1 (by
    show (got (step fairStart)).phase ≠ .rx
    decide)

/-- The run is fair, begins busy in a state of the invariant, and its timeout step is the one R148 speaks of. -/
theorem witness_EveryOperationEndsInAFairRun :
    FairRun fairRun ∧ (fairRun 0).Inv ∧ (fairRun 0).busy = true ∧ nextEvent (fairRun 0) = .tick 1000 ∧
    (fairRun 0).timeout.toNat ≤ (fairRun 0).timer.getD 0 + 1000 :=
  ⟨fairRun_fair,
   { memWf := by decide
     session := by decide
     timer := by decide
     built := .inr (by decide)
     request := fun _ => ⟨by decide, by decide +kernel⟩
     rxLen := by decide
     received := by decide
     transaction := by decide
     sending := by decide
     receiving := by decide
     checking := by decide
     noResult := by decide
     noVerdict := by decide }, by decide, rfl, by decide⟩

theorem witness_BytesMoveOnlyInTheirPhase :
    (Event.tick 0 ≠ .reset ∧ (got (step ((sending 0).eventNext (.tick 0)))).hist = [.txByte 0x21#8]) ∧
    (charEvent 0x21#8 ≠ .reset ∧ (got (step ((listening []).eventNext (charEvent 0x21#8)))).hist = [.rxByte 0x21#8]) := by
  decide

/-- A string with its trailing NULs; a value just long enough and one byte too short. -/
theorem witness_TypedDecoderReadsValues :
    2 * 3 ≤ (bytes [0x41, 0x42, 0x43, 0, 0, 0]).length ∧
    decodeAscii 3 (bytes [0x41, 0x42, 0x43, 0, 0, 0]) = .ok (bytes [0x41, 0x42, 0x43]) ∧
    bytes [0x41, 0x42, 0x43] ≠ [] ∧ (bytes [0x21, 0x03, 0x04]).length < 2 * registersOf .uint32 ∧
    decodeValue .uint32 (bytes [0x21, 0x03, 0x04]) = .error .insufficientLength := by
  refine ⟨?_, rfl, ?_, ?_, rfl⟩ <;> decide

/-- The ends of the index ranges; a lithium code and a boolean. -/
theorem witness_CatalogHoldsAddressesTypesAndScales :
    (1 ≤ 1 ∧ 1 ≤ 32 ∧ 32 ≤ 32 ∧ 1 ≤ 15 ∧ 15 ≤ 15) ∧ (32 < 33 ∧ 15 < 16) ∧
    ((AlarmEntry.mk .lithiumAbnormal 0 3).name = .lithiumAbnormal ∧ (AlarmEntry.mk .batteryMissing 0 1).name ≠ .lithiumAbnormal ∧
      (AlarmEntry.mk .batteryMissing 0 1).rawValue ≠ 0) := by decide

/-- A variant with two alarms of a module in one register, the bases of the tests, and the rest at free addresses. -/
def fullVariant : DeviceVariant :=
  { variant with
    cellVoltBase := 0xD800
    lithiumStride := 1
    alarms := [⟨.overvoltage, 0, .bit 0⟩, ⟨.overcurrent, 0, .bit 1⟩]
    vendor := ⟨0x1000, .uint16⟩, model := ⟨0x1001, .uint16⟩, version := ⟨0x1002, .uint16⟩
    text1 := (0x1010, 8), text2 := (0x1020, 8)
    batteryTemperature := ⟨0x1030, .int16⟩, batteryMissing := (0x1031, .register), banks := [] }

/-- Which family of `fullVariant` a register belongs to. -/
def fullVariantKey (a : Nat) : Nat :=
  if a < 0x1003 then a - 0x1000
  else if a < 0x1018 then 3
  else if a < 0x1028 then 4
  else if a = 0x1030 then 5
  else if a = 0x1031 then 7
  else if a < 0x2006 then 6
  else if a < 0xB000 then if (a - 0xA731) % 64 < 2 then 8 else if (a - 0xA731) % 64 < 4 then 9 else 10
  else if a < 0xD000 then 11
  else if a < 0xD800 then 12
  else if a < 0xE000 then 13
  else if a < 0xF000 then 14
  else 15

/-- Every register of the families, numbered from `i`, is within sixteen bits and has its family's key. -/
def keyed (key : Nat → Nat) : Nat → List RegisterFamily → Bool
  | _, [] => true
  | i, f :: fs => (familyRegisters f).all (fun a => decide (a ≤ 0xFFFF) && decide (key a = i)) && keyed key (i + 1) fs

theorem checkRegisters_fresh {taken rs : List Nat} (h : ∀ a ∈ rs, a ≤ 0xFFFF ∧ a ∉ taken) :
    checkRegisters taken rs = .ok () := by
  induction rs with
  | nil => rfl
  | cons a rs ih =>
    obtain ⟨h1, h2⟩ := h a List.mem_cons_self
    simp [checkRegisters, Nat.not_lt.mpr h1, h2, ih fun b hb => h b (List.mem_cons_of_mem a hb)]

/-- Registers told apart by a key pass the startup check: linear, where the check itself is quadratic. -/
theorem checkCatalog_keyed (key : Nat → Nat) {fs : List RegisterFamily} {taken : List Nat} {i : Nat}
    (ht : ∀ a ∈ taken, key a < i) (h : keyed key i fs = true) : checkCatalog taken fs = .ok () := by
  induction fs generalizing taken i with
  | nil => rfl
  | cons f fs ih =>
    simp only [keyed, Bool.and_eq_true, List.all_eq_true, decide_eq_true_eq] at h
    have hr : checkRegisters taken (familyRegisters f) = .ok () := checkRegisters_fresh fun a ha =>
      ⟨(h.1 a ha).1, fun hm => by have := ht a hm; have := (h.1 a ha).2; omega⟩
    simp only [checkCatalog, hr]
    refine ih (fun a ha => ?_) h.2
    rcases List.mem_append.mp ha with ha | ha
    · have := ht a ha; omega
    · have := (h.1 a ha).2; omega

/-- The variant passes the assertions of startup. -/
theorem test_full_catalog : catalog fullVariant = .ok (families fullVariant) := by
  have h : checkCatalog [] (families fullVariant) = .ok () :=
    checkCatalog_keyed fullVariantKey (i := 0) (by simp) (by decide +kernel)
  rw [catalog, if_pos (by decide), h]
  rfl
/-- 43 R167: an alarm named twice is refused at startup. -/
theorem test_alarm_twice :
    catalog { fullVariant with alarms := [⟨.overvoltage, 0, .bit 0⟩, ⟨.overvoltage, 1, .bit 0⟩] } = .error .alarms := by rfl

/-- Two families side by side, the last register at 0xFFFF. -/
theorem witness_CheckedCatalogHasNoOverlap :
    checkCatalog [] [timeFamily variant, moduleFamily 0xFFC0 2 .soc .uint16 .unit,
      fixedFamily .version ⟨0xFFFF, .uint16⟩ .unit] = .ok () := by rfl

end Sys2Proof.Tests
end

section
/-! PROOFS. The state after reset (10_state R45): the derived fields of `STATUS`, then all the stated values. -/

namespace Sys2Proof.Machine

/-- R17: the phase after reset is `P_IDLE`. -/
@[simp] theorem State.reset_busy : State.reset.busy = false := (State.busy_eq_false State.reset).2 rfl

/-- R22: the phase after reset is not `P_TX`. -/
@[simp] theorem State.reset_txEn : State.reset.txEn = false := by simp [State.txEn, State.reset]

/-- R15, R45: every field of `STATUS` is 0 after reset, the verdict's flags as they are stored, since the block is
quiescent. -/
@[simp] theorem State.reset_status : State.reset.status = 0x0000#16 := by
  simp only [State.status, State.reset_txEn, State.reset_busy, State.shown_idle _ State.reset_busy]
  decide

/-- Settles O47: `STATUS`, `BUSY` and `TXEN` are computed and have lemmas of their own; every other value is stored, and is
the one `State.reset` writes. -/
theorem resetLeavesTheStatedValues : Obligations.ResetLeavesTheStatedValues := by
  refine ⟨State.reset_status, rfl, State.reset_busy, rfl, rfl, rfl, rfl, rfl, rfl, State.reset_txEn, ?_⟩
  simp only [State.reset, and_self]

end Sys2Proof.Machine
end

section
/-! PROOFS. Reserved operation codes (30_encoding R85): which command words the decoder rejects, and what a write of one
does. -/

namespace Sys2Proof

/-- The operation codes R85 reserves: 0x00 and 0x0B to 0xFF. -/
def ReservedOp (op : Byte) : Prop := op = 0x00#8 ∨ 0x0B ≤ op.toNat

/-- The operation codes that are left are the ten of R83. -/
theorem not_reservedOp_iff (op : Byte) : ¬ ReservedOp op ↔ 0x01 ≤ op.toNat ∧ op.toNat ≤ 0x0A := by
  have hzero : op = 0x00#8 ↔ op.toNat = 0 := BitVec.toNat_inj.symm
  rw [ReservedOp, hzero]
  omega

/-- R85: no row of the operation table stands for a reserved code. -/
theorem decodeCmd_of_reserved {w : Word16} (h : ReservedOp (loByte w)) :
    decodeCmd w = .error (.reservedOp (loByte w)) := by
  have hrow : ¬(0x01 ≤ (loByte w).toNat ∧ (loByte w).toNat ≤ 0x0A) := fun hr => (not_reservedOp_iff _).2 hr h
  unfold decodeCmd
  split
  case h_11 => rfl
  all_goals omega

/-- R83: every other code has a row. -/
theorem decodeCmd_of_not_reserved {w : Word16} (h : ¬ ReservedOp (loByte w)) : ∃ i, decodeCmd w = .ok i := by
  obtain ⟨hlow, hhigh⟩ := (not_reservedOp_iff _).1 h
  unfold decodeCmd
  generalize (loByte w).toNat = op at hlow hhigh ⊢
  interval_cases op <;> exact ⟨_, rfl⟩

theorem decode_cmd_error_iff (w : Word16) : (∃ e, decode (.cmd w) = .error e) ↔ ReservedOp (loByte w) := by
  constructor
  · rintro ⟨e, he⟩
    by_contra h
    obtain ⟨i, hi⟩ := decodeCmd_of_not_reserved h
    cases he.symm.trans hi
  · exact fun h => ⟨_, decodeCmd_of_reserved h⟩

end Sys2Proof

namespace Sys2Proof.Machine

/-- R85: a write of `CMD` whose word (R82: its low sixteen bits) is rejected is refused. -/
theorem runLine_cmd_error {v : Word32} {e : DecodeError} (s : State) (h : decode (.cmd (v.setWidth 16)) = .error e) :
    runLine (.wr 0#4 v) s = .next s.refuse := by
  simp [runLine, h]

/-- Settles O44: a code without a row is rejected, and at the host's turn the rejected word is refused; the sixteen bits
are the word's own. -/
theorem reservedOperationCodesAreRefused : Obligations.ReservedOperationCodesAreRefused := by
  intro w s
  refine ⟨decode_cmd_error_iff w, fun hreserved => ?_⟩
  have hword : (w.setWidth 32).setWidth 16 = w := BitVec.setWidth_setWidth_of_le w (by decide)
  obtain ⟨e, he⟩ := (decode_cmd_error_iff w).2 hreserved
  rw [step_hostNext]
  exact runLine_cmd_error s (by rw [hword, he])

end Sys2Proof.Machine
end

section
/-! PROOFS. The commands of the CRC16 unit (40_crc16 R96, R97): their command words, and that they write `CRC` alone. -/

namespace Sys2Proof

/-- R83, R84: operation code 0x01 is CRCINIT, whatever the operand it ignores. -/
@[simp] theorem decode_cmd_crcinit (arg : Byte) : decode (.cmd (pair arg 0x01#8)) = .ok .crcinit := by
  simp [decode, decodeCmd]

/-- R83, R84: operation code 0x02 is CRCBYTE, with the high byte as its operand. -/
@[simp] theorem decode_cmd_crcbyte (b : Byte) : decode (.cmd (pair b 0x02#8)) = .ok (.crcbyte b) := by
  simp [decode, decodeCmd]

end Sys2Proof

namespace Sys2Proof.Machine

theorem exec_crcinit_idle {s : State} (h : s.busy = false) : exec .crcinit s = .next { s with crc := 0xFFFF#16 } :=
  State.whenQuiescent_idle _ h

theorem exec_crcbyte_idle {s : State} (b : Byte) (h : s.busy = false) :
    exec (.crcbyte b) s = .next { s with crc := crcStep s.crc b } :=
  State.whenQuiescent_idle _ h

/-- Settles O2: while quiescent both commands are their one write of `CRC`; while busy they are refused as every command
is, and a refusal sets `CMDERR` alone. -/
theorem crcCommandsWriteTheAccumulatorAlone : Obligations.CrcCommandsWriteTheAccumulatorAlone := by
  intro s b
  have refused (i : Instr) (hi : i.isCommand = true) (hbusy : s.busy = true) :
      exec i s = .next { s with cmdErr := true } := exec_command_busy hi hbusy
  exact ⟨decode_cmd_crcinit b, decode_cmd_crcbyte b, exec_crcinit_idle, exec_crcbyte_idle b,
    refused .crcinit rfl, refused (.crcbyte b) rfl⟩

end Sys2Proof.Machine
end

section
/-! PROOFS. BUILD (41_frame_codec R102 to R104): its command word, the request it leaves in `TXBUF`, and when it is
refused. -/

namespace Sys2Proof

/-- R83, R84: operation code 0x03 is BUILD, whatever the operand it ignores. -/
@[simp] theorem decode_cmd_build (arg : Byte) : decode (.cmd (pair arg 0x03#8)) = .ok .build := by
  simp [decode, decodeCmd]

end Sys2Proof

namespace Sys2Proof.Machine

/-- A command whose effect is itself a refusal is refused, busy or not (60_exceptions R196). -/
theorem State.whenQuiescent_refused {s e : State} (h : s.busy = true ∨ e = s.refuse) :
    s.whenQuiescent e = .next s.refuse := by
  rcases h with hbusy | rfl
  · exact State.whenQuiescent_busy e hbusy
  · exact ite_self _

/-- The cells of a list written at 0 are listed, and hold its bytes. -/
theorem Memory.map_some_read_writeList (m : Memory) (bs : List Byte) :
    (List.range bs.length).map (m.writeList 0 bs).read = bs.map some := by
  apply List.ext_getElem
  · simp
  · intro i hi _
    have hlt : i < bs.length := by simpa using hi
    simp [Memory.read_writeList, hlt]

theorem exec_build_idle {s : State} (h : s.busy = false) (hcount : s.count.toNat ≤ 125) :
    exec .build s = .next s.buildRequest :=
  (State.whenQuiescent_idle _ h).trans (congrArg _ (if_neg (Nat.not_lt.mpr hcount)))

theorem exec_build_refused {s : State} (h : s.busy = true ∨ 125 < s.count.toNat) : exec .build s = .next s.refuse :=
  State.whenQuiescent_refused (h.imp_right fun hcount => if_pos hcount)

/-- Settles O4: an accepted BUILD answers `buildRequest`, whose frame of eight bytes is written at 0 and leaves the bytes
from 8 up; otherwise it is a refusal. -/
theorem buildWritesTheRequestOrIsRefused : Obligations.BuildWritesTheRequestOrIsRefused := by
  intro s
  refine ⟨decode_cmd_build, fun hidle hcount => ?_, exec_build_refused⟩
  have hframe : (List.range 8).map s.buildRequest.txBuf.read =
      (requestFrame s.slave s.func s.start s.count).map some :=
    Memory.map_some_read_writeList s.txBuf (requestFrame s.slave s.func s.start s.count)
  exact ⟨s.buildRequest, exec_build_idle hidle hcount, rfl, hframe, fun _ => s.buildRequest_read, rfl,
    s.buildRequest_expLen hcount, rfl⟩

end Sys2Proof.Machine
end

section
/-! PROOFS. Loading the receive buffer by hand (41_frame_codec R107, R108): the command words of RXCLR and RXPUSH, what
they store, and when they are refused. -/

namespace Sys2Proof

/-- R83, R84: operation code 0x04 is RXCLR, whatever the operand it ignores. -/
@[simp] theorem decode_cmd_rxclr (arg : Byte) : decode (.cmd (pair arg 0x04#8)) = .ok .rxclr := by
  simp [decode, decodeCmd]

/-- R83, R84: operation code 0x05 is RXPUSH, with the high byte as its operand. -/
@[simp] theorem decode_cmd_rxpush (b : Byte) : decode (.cmd (pair b 0x05#8)) = .ok (.rxpush b) := by
  simp [decode, decodeCmd]

end Sys2Proof

namespace Sys2Proof.Machine

theorem exec_rxclr_idle {s : State} (h : s.busy = false) : exec .rxclr s = .next { s.clearVerdict with rxLen := 0#9 } :=
  State.whenQuiescent_idle _ h

theorem exec_rxpush_idle {s : State} (b : Byte) (h : s.busy = false) (hroom : s.rxLen.toNat < 256) :
    exec (.rxpush b) s = .next (s.appendRx b).clearVerdict :=
  (State.whenQuiescent_idle _ h).trans (congrArg _ (if_neg (Nat.ne_of_lt hroom)))

theorem exec_rxpush_refused {s : State} (b : Byte) (h : s.busy = true ∨ s.rxLen.toNat = 256) :
    exec (.rxpush b) s = .next s.refuse :=
  State.whenQuiescent_refused (h.imp_right fun hfull => if_pos hfull)

/-- With room in the buffer `RXLEN` counts the byte without wrapping. -/
theorem State.appendRx_rxLen_toNat {s : State} (b : Byte) (hroom : s.rxLen.toNat < 256) :
    (s.appendRx b).rxLen.toNat = s.rxLen.toNat + 1 := by
  rw [State.appendRx_rxLen, BitVec.toNat_add, BitVec.toNat_ofNat]
  omega

/-- With room in the buffer the byte is stored at `RXLEN` and no other byte is touched. -/
theorem State.appendRx_read {s : State} (b : Byte) (hroom : s.rxLen.toNat < 256) (a : Nat) :
    (s.appendRx b).rxBuf.read a = if a = s.rxLen.toNat then some b else s.rxBuf.read a := by
  have hcap : s.rxLen.toNat < Config.rxCap := hroom
  rw [State.appendRx_rxBuf, Memory.writeBelow_of_lt _ _ hcap, Memory.read_write]

/-- Settles O5: an accepted RXPUSH is `appendRx` followed by the clearing of the verdict, which touches neither `RXBUF` nor
`RXLEN`. -/
theorem rxclrAndRxpushFillTheReceiveBuffer : Obligations.RxclrAndRxpushFillTheReceiveBuffer := by
  intro s b
  refine ⟨decode_cmd_rxclr b, decode_cmd_rxpush b, exec_rxclr_idle, exec_command_busy rfl, fun hidle hroom => ?_,
    exec_rxpush_refused b⟩
  exact ⟨(s.appendRx b).clearVerdict, exec_rxpush_idle b hidle hroom, State.appendRx_rxLen_toNat b hroom,
    State.appendRx_read b hroom, rfl⟩

end Sys2Proof.Machine
end

section
/-! PROOFS. PARSE (41_frame_codec R109 to R115): what a failed check answers while quiescent, the payload of a validated
frame, and the match flags. -/

namespace Sys2Proof.Machine

/-! ### The failed checks -/

theorem exec_parse_idle {s : State} (h : s.busy = false) : exec .parse s = .next s.validate :=
  State.whenQuiescent_idle _ h

/-- The errors of the three checks of `validate()` (R109). -/
def ErrorCode.isFrameError : ErrorCode → Bool
  | .tooShort | .crcMismatch | .lengthMismatch => true
  | .timeout | .fatal => false

/-- Outside a transaction a frame error writes the verdict alone: the session and the phase stay. -/
theorem State.raise_frameError_idle {s : State} {e : ErrorCode} (he : e.isFrameError = true) (h : s.busy = false) :
    s.raise e = { s with
      result := .error e, payLen := 0#8, slvOk := false, funOk := false, cntOk := false } := by
  have hphase : s.phase = .idle := s.busy_eq_false.mp h
  cases e with
  | tooShort | crcMismatch | lengthMismatch => simp [State.raise, State.clearMatch, hphase]
  | timeout | fatal => cases he

/-- Every error leaves its code and no match flag (60_exceptions R198). -/
theorem State.raise_verdict (s : State) (e : ErrorCode) :
    (s.raise e).result = .error e ∧ (s.raise e).slvOk = false ∧ (s.raise e).funOk = false ∧
      (s.raise e).cntOk = false := by
  cases e <;> exact ⟨rfl, rfl, rfl, rfl⟩

/-- Settles O6: the first check of the validator fails before it reads a byte. -/
theorem parseOfFewerThanFiveBytesIsTooShort : Obligations.ParseOfFewerThanFiveBytesIsTooShort := by
  intro s
  refine ⟨fun hidle hshort => ?_, exec_command_busy rfl⟩
  rw [exec_parse_idle hidle, State.validate_short hshort]
  exact congrArg _ (State.raise_frameError_idle rfl hidle)

/-! ### The validated frame -/

/-- The comparison with the last request writes the match flags alone. -/
theorem State.matchRequest_frame (s : State) :
    s.matchRequest = { s with
      slvOk := s.matchRequest.slvOk, funOk := s.matchRequest.funOk, cntOk := s.matchRequest.cntOk } := by
  unfold State.matchRequest
  split <;> rfl

@[simp] theorem State.matchRequest_result (s : State) : s.matchRequest.result = s.result := by
  rw [s.matchRequest_frame]

@[simp] theorem State.matchRequest_payLen (s : State) : s.matchRequest.payLen = s.payLen := by
  rw [s.matchRequest_frame]

@[simp] theorem State.matchRequest_payload (s : State) : s.matchRequest.payload = s.payload := by
  rw [s.matchRequest_frame]
  rfl

/-- The bytes of `RXBUF` after the first `m` of `m + n`. -/
theorem State.rxBytes_drop (s : State) (m n : Nat) :
    (s.rxBytes (m + n)).drop m = (List.range n).map fun k => s.rxByte (m + k) := by
  simp [State.rxBytes, List.range_add]

/-- The payload (10_state R34) is `PAYLEN` bytes after the three of the header. -/
theorem State.payload_eq_drop {s : State} {n : Nat} (h : s.payLen.toNat = n) :
    s.payload = (s.rxBytes (n + 3)).drop 3 := by
  rw [State.payload, h, Nat.add_comm n 3, State.rxBytes_drop]

/-- Settles O8: a wrong byte count is the validator's third error; a right one leaves `RXBUF` as it was, so that the
payload is that of the state before. -/
theorem parseComparesTheByteCount : Obligations.ParseComparesTheByteCount := by
  intro s n hidle hlen hcrc
  rw [exec_parse_idle hidle]
  refine ⟨fun hcount => ?_, fun hcount => ?_⟩
  · rw [State.validate_length hlen hcrc hcount]
    exact congrArg _ (State.raise_frameError_idle rfl hidle)
  · rw [State.validate_ok hlen hcrc hcount]
    refine ⟨_, rfl, State.matchRequest_result _, ?_, ?_, State.matchRequest_frame _⟩
    · rw [State.matchRequest_payLen, hcount]
    · rw [State.matchRequest_payload, State.payload_eq_drop hcount]
      rfl

/-! ### The match flags -/

/-- The validator either raises an error or compares the frame it accepted with the last request. -/
theorem State.validate_raises_or_matches (s : State) :
    (∃ u e, s.validate = State.raise u e) ∨
    ∃ c, s.validate =
      State.matchRequest { s.clearMatch with crc := c, result := .ok, payLen := s.rxByte 2 } := by
  rcases Nat.lt_or_ge s.rxLen.toNat 5 with hshort | hlong
  · exact .inl ⟨_, _, State.validate_short hshort⟩
  · obtain ⟨n, hlen⟩ : ∃ n, s.rxLen.toNat = n + 5 := ⟨s.rxLen.toNat - 5, by omega⟩
    by_cases hcrc : pair (s.rxByte (n + 4)) (s.rxByte (n + 3)) = crc16 (s.rxBytes (n + 3))
    · by_cases hcount : (s.rxByte 2).toNat = n
      · exact .inr ⟨_, State.validate_ok hlen hcrc hcount⟩
      · exact .inl ⟨_, _, State.validate_length hlen hcrc hcount⟩
    · exact .inl ⟨_, _, State.validate_crc hlen hcrc⟩

/-- With no request built the flags stay as they are (R114). -/
theorem State.matchRequest_flags_unbuilt {s : State} (h : s.txLen ≠ 8#4) :
    s.matchRequest.slvOk = s.slvOk ∧ s.matchRequest.funOk = s.funOk ∧ s.matchRequest.cntOk = s.cntOk := by
  simp [State.matchRequest, h]

/-- With a request built each flag is its comparison (R114). -/
theorem State.matchRequest_flags_built {s : State} (h : s.txLen = 8#4) :
    (s.matchRequest.slvOk = true ↔ s.rxByte 0 = s.txByte 0) ∧
    (s.matchRequest.funOk = true ↔ s.rxByte 1 = s.txByte 1) ∧
    (s.matchRequest.cntOk = true ↔ (s.rxByte 2).toNat = 2 * (pair (s.txByte 4) (s.txByte 5)).toNat) := by
  simp [State.matchRequest, h]

/-- Settles O9: an error leaves the flags 0, an accepted frame is compared where a request was built, and the comparison
reads the buffers as they were before. -/
theorem matchFlagsCompareWithTheBuiltRequest : Obligations.MatchFlagsCompareWithTheBuiltRequest := by
  intro s hidle
  refine ⟨s.validate, exec_parse_idle hidle, ?_⟩
  rcases s.validate_raises_or_matches with ⟨u, e, hraise⟩ | ⟨c, hmatch⟩
  · obtain ⟨hresult, hflags⟩ := u.raise_verdict e
    rw [hraise, hresult]
    exact ⟨fun _ => hflags, fun h => nomatch h.1⟩
  · rw [hmatch, State.matchRequest_result]
    exact ⟨fun h => State.matchRequest_flags_unbuilt (h.resolve_left (· rfl)),
      fun ⟨_, hbuilt⟩ => State.matchRequest_flags_built hbuilt⟩

end Sys2Proof.Machine
end

section
/-! PROOFS. The typed decoder (43_host_software R151 to R156): the integers of a payload that is long enough, the trimming
of a string, and the payloads that are too short. -/

namespace Sys2Proof.Machine

/-! ### The integers -/

@[simp] theorem payloadWord_cons (a b : Byte) (rest : List Byte) : payloadWord (a :: b :: rest) = .ok (pair a b) := rfl

@[simp] theorem payloadDouble_cons (a b c d : Byte) (rest : List Byte) :
    payloadDouble (a :: b :: c :: d :: rest) = .ok (pair a b ++ pair c d) := rfl

/-- The shift of the hi-word in R154 is a product. -/
theorem word_append_toNat (hi lo : Word16) : (hi ++ lo).toNat = hi.toNat * 65536 + lo.toNat := by
  rw [BitVec.toNat_append, ← Nat.shiftLeft_add_eq_or_of_lt lo.isLt, Nat.shiftLeft_eq]

/-- Two's complement at a width above 0, by the value of the pattern (R153, R155). -/
theorem toInt_eq_ite_half {w : Nat} (v : BitVec (w + 1)) :
    v.toInt = if v.toNat < 2 ^ w then (v.toNat : Int) else (v.toNat : Int) - 2 ^ (w + 1) := by
  rw [BitVec.toInt_eq_toNat_cond, Nat.pow_succ]
  push_cast
  split <;> split <;> omega

theorem decodeUint16_cons (a b : Byte) (rest : List Byte) :
    decodeUint16 (a :: b :: rest) = .ok (256 * a.toNat + b.toNat) := by
  rw [decodeUint16, payloadWord_cons, Except.map, pair_toNat]

theorem decodeInt16_cons (a b : Byte) (rest : List Byte) :
    decodeInt16 (a :: b :: rest) =
      .ok (if 256 * a.toNat + b.toNat < 32768 then ((256 * a.toNat + b.toNat : Nat) : Int)
        else ((256 * a.toNat + b.toNat : Nat) : Int) - 65536) := by
  rw [decodeInt16, payloadWord_cons, Except.map, toInt_eq_ite_half, pair_toNat]
  rfl

theorem decodeUint32_cons (a b c d : Byte) (rest : List Byte) :
    decodeUint32 (a :: b :: c :: d :: rest) =
      .ok ((256 * a.toNat + b.toNat) * 65536 + (256 * c.toNat + d.toNat)) := by
  rw [decodeUint32, payloadDouble_cons, Except.map, word_append_toNat, pair_toNat, pair_toNat]

theorem decodeInt32_cons (a b c d : Byte) (rest : List Byte) :
    decodeInt32 (a :: b :: c :: d :: rest) =
      .ok (if (256 * a.toNat + b.toNat) * 65536 + (256 * c.toNat + d.toNat) < 2147483648
        then (((256 * a.toNat + b.toNat) * 65536 + (256 * c.toNat + d.toNat) : Nat) : Int)
        else (((256 * a.toNat + b.toNat) * 65536 + (256 * c.toNat + d.toNat) : Nat) : Int) - 4294967296) := by
  rw [decodeInt32, payloadDouble_cons, Except.map, toInt_eq_ite_half, word_append_toNat, pair_toNat, pair_toNat]
  rfl

/-! ### The strings -/

/-- The trimmed bytes in the words of D31: NUL, blank, and 0x09 to 0x0D. -/
theorem isTrimmed_iff_mem (b : Byte) :
    isTrimmed b = true ↔ b ∈ [0x00#8, 0x20#8, 0x09#8, 0x0A#8, 0x0B#8, 0x0C#8, 0x0D#8] := by
  simp only [isTrimmed, Bool.or_eq_true, Bool.and_eq_true, decide_eq_true_eq, List.mem_cons, List.not_mem_nil,
    or_false, BitVec.toNat_eq, BitVec.toNat_ofNat, Nat.reducePow, Nat.reduceMod, Nat.zero_mod]
  omega

theorem trimEnd_eq_rdropWhile (chars : List Byte) : trimEnd chars = chars.rdropWhile isTrimmed := rfl

theorem decodeAscii_of_le {regs : Nat} {p : List Byte} (h : 2 * regs ≤ p.length) :
    decodeAscii regs p = .ok (trimEnd (p.take (2 * regs))) :=
  if_neg (by omega)

/-! ### Insufficient length -/

theorem map_eq_insufficientLength_iff {α β : Type} (f : α → β) (x : Except PayloadError α) :
    x.map f = .error .insufficientLength ↔ x = .error .insufficientLength := by
  cases x <;> simp [Except.map]

theorem payloadWord_error_iff (p : List Byte) :
    payloadWord p = .error .insufficientLength ↔ p.length < 2 := by
  match p with
  | [] | [_] => simp [payloadWord]
  | _ :: _ :: _ => simp

theorem payloadDouble_error_iff (p : List Byte) :
    payloadDouble p = .error .insufficientLength ↔ p.length < 4 := by
  match p with
  | [] | [_] | [_, _] | [_, _, _] => simp [payloadDouble, payloadWord]
  | _ :: _ :: _ :: _ :: _ => simp

theorem decodeAscii_error_iff (regs : Nat) (p : List Byte) :
    decodeAscii regs p = .error .insufficientLength ↔ p.length < 2 * regs := by
  rcases Nat.lt_or_ge p.length (2 * regs) with hshort | hlong
  · simp [decodeAscii, hshort]
  · simp [decodeAscii_of_le hlong, hlong]

/-- A payload decodes at a type exactly when it holds the registers of the type (R151). -/
theorem decodeValue_error_iff (t : ValueType) (p : List Byte) :
    decodeValue t p = .error .insufficientLength ↔ p.length < 2 * registersOf t := by
  cases t with
  | uint16 | int16 =>
    exact ((map_eq_insufficientLength_iff _ _).trans (map_eq_insufficientLength_iff _ _)).trans
      (payloadWord_error_iff p)
  | uint32 | int32 =>
    exact ((map_eq_insufficientLength_iff _ _).trans (map_eq_insufficientLength_iff _ _)).trans
      (payloadDouble_error_iff p)
  | asciiString n => exact (map_eq_insufficientLength_iff _ _).trans (decodeAscii_error_iff n p)

/-- Settles O58: an integer is the value of the word or double word at the start of the payload; a string is split where
the trailing run of trimmed bytes begins; every decoder fails with its payload's word, double word or length. -/
theorem typedDecoderReadsValues : Obligations.TypedDecoderReadsValues := by
  refine ⟨fun a b c d rest => ?_, fun regs p hlong => ?_, fun p => ⟨rfl, rfl, rfl, rfl, fun _ => rfl⟩,
    decodeValue_error_iff⟩
  · exact ⟨decodeUint16_cons a b rest, decodeInt16_cons a b rest, decodeUint32_cons a b c d rest,
      decodeInt32_cons a b c d rest⟩
  · refine ⟨_, (p.take (2 * regs)).rtakeWhile isTrimmed, decodeAscii_of_le hlong, ?_, fun b hb => ?_, fun h => ?_⟩
    · exact List.rdropWhile_append_rtakeWhile
    · exact (isTrimmed_iff_mem b).mp (List.mem_rtakeWhile_imp hb)
    · exact (isTrimmed_iff_mem _).not.mp (List.rdropWhile_last_not _ _ h)

end Sys2Proof.Machine
end

section
/-! PROOFS. Refusals (60_exceptions R196): the actions on the list set `CMDERR` and change nothing else, and no other
action sets it. -/

namespace Sys2Proof

/-- R83: the command words decode to the ten commands. -/
theorem isCommand_of_decodeCmd {w : Word16} {i : Instr} (h : decodeCmd w = .ok i) : i.isCommand = true := by
  unfold decodeCmd at h
  split at h <;> cases h <;> rfl

theorem Instr.isWire_of_isCommand {i : Instr} (h : i.isCommand = true) : i.isWire = false := by
  cases i with
  | rtuRequest | rtuResponse | uartChar => cases h
  | _ => rfl

end Sys2Proof

namespace Sys2Proof.Machine

/-- What R196 says of an action that takes `s` to `t`, where `refused` tells whether the action is on the list. -/
def RefusalShown (refused : Bool) (s t : State) : Prop :=
  (refused = true → t = s.refuse) ∧ (refused = false → s.cmdErr = false → t.cmdErr = false)

theorem RefusalShown.of_refuse (s : State) : RefusalShown true s s.refuse := ⟨fun _ => rfl, nofun⟩

theorem RefusalShown.of_accepted {s t : State} (h : s.cmdErr = false → t.cmdErr = false) : RefusalShown false s t :=
  ⟨nofun, fun _ => h⟩

/-! ### Commands -/

/-- The validator leaves `CMDERR`. -/
theorem State.validate_cmdErr {s : State} (h : s.busy = false) : s.validate.cmdErr = s.cmdErr := by
  rw [State.validate_frame (s.busy_eq_false.mp h)]

/-- R196 (a), (e) to (h): a command on the list is refused. -/
theorem exec_command_refused {i : Instr} {s : State} (hi : i.isCommand = true)
    (h : (s.busy || commandRefused i s) = true) : exec i s = .next s.refuse := by
  rcases Bool.or_eq_true_iff.mp h with hbusy | hlisted
  · exact exec_command_busy hi hbusy
  · cases i with
    | build => exact exec_build_refused (.inr (of_decide_eq_true hlisted))
    | rxpush b => exact exec_rxpush_refused b (.inr (congrArg BitVec.toNat (of_decide_eq_true hlisted)))
    | openSession => exact State.whenQuiescent_refused (.inr (if_neg (of_decide_eq_true hlisted)))
    | xfer =>
      have hstate : ¬(s.sess = .idle ∧ s.txLen = 8#4) := not_and_or.mpr (by simpa [commandRefused] using hlisted)
      exact State.whenQuiescent_refused (.inr (if_neg hstate))
    | _ => cases hlisted

/-- A command that is not on the list is performed, and no command that is performed sets `CMDERR`. -/
theorem exec_command_accepted {i : Instr} {s : State} (hi : i.isCommand = true) (hidle : s.busy = false)
    (h : commandRefused i s = false) : ∃ t, exec i s = .next t ∧ (s.cmdErr = false → t.cmdErr = false) := by
  cases i with
  | crcinit => exact ⟨_, exec_crcinit_idle hidle, id⟩
  | crcbyte b => exact ⟨_, exec_crcbyte_idle b hidle, id⟩
  | build => exact ⟨_, exec_build_idle hidle (Nat.not_lt.mp (of_decide_eq_false h)), id⟩
  | rxclr => exact ⟨_, exec_rxclr_idle hidle, id⟩
  | rxpush b =>
    have hnotFull : s.rxLen.toNat ≠ 256 := fun hfull => of_decide_eq_false h (BitVec.eq_of_toNat_eq hfull)
    exact ⟨_, (State.whenQuiescent_idle _ hidle).trans (congrArg _ (if_neg hnotFull)), id⟩
  | parse => exact ⟨_, exec_parse_idle hidle, (State.validate_cmdErr hidle).trans⟩
  | openSession =>
    have hclosed : s.sess = .disconnected := not_not.mp (of_decide_eq_false h)
    exact ⟨_, (State.whenQuiescent_idle _ hidle).trans (congrArg _ (if_pos hclosed)), id⟩
  | closeSession => exact ⟨_, State.whenQuiescent_idle _ hidle, id⟩
  | xfer =>
    have hready : s.sess = .idle ∧ s.txLen = 8#4 := by simpa [commandRefused] using h
    exact ⟨_, (State.whenQuiescent_idle _ hidle).trans (congrArg _ (if_pos hready)), id⟩
  | clrerr => exact ⟨_, State.whenQuiescent_idle _ hidle, fun _ => rfl⟩
  | _ => cases hi

theorem exec_command_refusalShown {i : Instr} {s t : State} (hi : i.isCommand = true) (h : exec i s = .next t) :
    RefusalShown (s.busy || commandRefused i s) s t := by
  cases hlisted : s.busy || commandRefused i s with
  | true =>
    cases h.symm.trans (exec_command_refused hi hlisted)
    exact .of_refuse s
  | false =>
    obtain ⟨hidle, hother⟩ := Bool.or_eq_false_iff.mp hlisted
    obtain ⟨u, hu, hclear⟩ := exec_command_accepted hi hidle hother
    cases h.symm.trans hu
    exact .of_accepted hclear

/-! ### Register writes -/

/-- The storage of a register takes the value unless the register is read-only or reserved (R196 c). -/
theorem State.storeReg_refusalShown (s : State) {n : RegNum} (v : Word32) (hn : n ≠ 0#4) :
    RefusalShown (decide (n.toNat ∈ [1, 2, 10, 11, 12, 13, 14, 15])) s (s.storeReg n v) := by
  unfold State.storeReg
  split
  case h_8 =>
    have hlisted : n.toNat ∈ [1, 2, 10, 11, 12, 13, 14, 15] := by
      have hpos : n.toNat ≠ 0 := fun h => hn (BitVec.eq_of_toNat_eq h)
      have hlt : n.toNat < 16 := n.isLt
      simp only [imp_false, List.mem_cons, List.not_mem_nil, or_false] at *
      omega
    rw [decide_eq_true hlisted]
    exact .of_refuse s
  all_goals
    rename_i hreg
    rw [hreg]
    exact .of_accepted id

/-- R196 (b), (c): a write of a register other than `CMD`. -/
theorem State.writeReg_refusalShown (s : State) {n : RegNum} (v : Word32) (hn : n ≠ 0#4) :
    RefusalShown (actionRefused (.wr n v) s) s (s.writeReg n v) := by
  have hlist : actionRefused (.wr n v) s =
      ((s.busy && decide (n ≠ 9#4)) || decide (n.toNat ∈ [1, 2, 10, 11, 12, 13, 14, 15])) := by
    simp [actionRefused, hn]
  rw [hlist]
  by_cases hlocked : s.busy = true ∧ n ≠ 9#4
  · have hbusy : (s.busy && decide (n ≠ 9#4)) = true := by simpa using hlocked
    rw [hbusy, State.writeReg, if_pos hlocked]
    exact .of_refuse s
  · have hfree : (s.busy && decide (n ≠ 9#4)) = false := by simpa using hlocked
    rw [hfree, State.writeReg, if_neg hlocked]
    exact s.storeReg_refusalShown v hn

/-- R14, R85: a write of `CMD` is the command it encodes, or is refused as a reserved operation (R196 a, d). -/
theorem runLine_writeCmd_refusalShown {v : Word32} {s t : State} (h : runLine (.wr 0#4 v) s = .next t) :
    RefusalShown (actionRefused (.wr 0#4 v) s) s t := by
  cases hword : decodeCmd (v.setWidth 16) with
  | error e =>
    have hlist : actionRefused (.wr 0#4 v) s = true := by simp [actionRefused, hword]
    cases h.symm.trans (runLine_cmd_error s hword)
    rw [hlist]
    exact .of_refuse s
  | ok i =>
    have hlist : actionRefused (.wr 0#4 v) s = (s.busy || commandRefused i s) := by simp [actionRefused, hword]
    have hexec : runLine (.wr 0#4 v) s = exec i s := by simp [runLine, decode, hword]
    rw [hlist]
    exact exec_command_refusalShown (isCommand_of_decodeCmd hword) (hexec.symm.trans h)

/-! ### Reads -/

/-- R53: a register read touches no field of the block. -/
theorem State.readReg_own (s : State) (n : RegNum) : s.readReg n = s.withOwn (s.readReg n) := by
  unfold State.readReg
  split <;> rfl

/-- R53: nor does a read of a byte of `TXBUF`. -/
theorem State.readTxBuf_own {s t : State} {i : Nat} (h : s.readTxBuf i = .next t) : t = s.withOwn t := by
  unfold State.readTxBuf at h
  split_ifs at h <;> cases h <;> rfl

/-- R53: nor does a read of a byte of `RXBUF`. -/
theorem State.readRxBuf_own {s t : State} {i : Nat} (h : s.readRxBuf i = .next t) : t = s.withOwn t := by
  unfold State.readRxBuf at h
  split_ifs at h <;> cases h <;> rfl

/-- An action that touches no field of the block is not refused. -/
theorem RefusalShown.of_own {s t : State} (h : t = s.withOwn t) : RefusalShown false s t :=
  .of_accepted (congrArg State.cmdErr h).trans

/-! ### The port -/

/-- Settles O31: by the form of the action. A command, a mnemonic or a write of `CMD`, is refused exactly as
`commandRefused` and `BUSY` say; a register write by its number; a read never. -/
theorem theListOfRefusalsIsComplete : Obligations.TheListOfRefusalsIsComplete := by
  intro s t l hport hstep
  rw [step_hostNext] at hstep
  change RefusalShown (actionRefused l s) s t
  cases l with
  | wr n v =>
    by_cases hn : n = 0#4
    · subst hn
      exact runLine_writeCmd_refusalShown hstep
    · have hwrite : runLine (.wr n v) s = .next (s.writeReg n v) := by simp [runLine, issueLine, hn]
      cases hstep.symm.trans hwrite
      exact s.writeReg_refusalShown v hn
  | op i =>
    have hexec : runLine (.op i) s = exec i s := by simp [runLine, Instr.isWire_of_isCommand hport]
    exact exec_command_refusalShown hport (hexec.symm.trans hstep)
  | rd n =>
    cases hstep
    exact .of_own (s.readReg_own n)
  | rdbTx i => exact .of_own (State.readTxBuf_own hstep)
  | rdbRx i => exact .of_own (State.readRxBuf_own hstep)
  | engine e => cases hport

end Sys2Proof.Machine
end

section
/-! PROOFS. The decoder and the encoder undo each other (30_encoding R67 to R85): command words, frames, characters. -/

namespace Sys2Proof

/-! ### Command words -/

/-- R83, R84: operation code 0x06 is PARSE, whatever the operand it ignores. -/
@[simp] theorem decode_cmd_parse (arg : Byte) : decode (.cmd (pair arg 0x06#8)) = .ok .parse := by
  simp [decode, decodeCmd]

/-- R83, R84: operation code 0x07 is OPEN, whatever the operand it ignores. -/
@[simp] theorem decode_cmd_openSession (arg : Byte) : decode (.cmd (pair arg 0x07#8)) = .ok .openSession := by
  simp [decode, decodeCmd]

/-- R83, R84: operation code 0x08 is CLOSE, whatever the operand it ignores. -/
@[simp] theorem decode_cmd_closeSession (arg : Byte) : decode (.cmd (pair arg 0x08#8)) = .ok .closeSession := by
  simp [decode, decodeCmd]

/-- R83, R84: operation code 0x09 is XFER, whatever the operand it ignores. -/
@[simp] theorem decode_cmd_xfer (arg : Byte) : decode (.cmd (pair arg 0x09#8)) = .ok .xfer := by
  simp [decode, decodeCmd]

/-- R83, R84: operation code 0x0A is CLRERR, whatever the operand it ignores. -/
@[simp] theorem decode_cmd_clrerr (arg : Byte) : decode (.cmd (pair arg 0x0A#8)) = .ok .clrerr := by
  simp [decode, decodeCmd]

/-- A command word is its operation below its operand (R82). -/
theorem pair_of_loByte {w : Word16} {op : Byte} (h : loByte w = op) : pair (hiByte w) op = w := by
  rw [← h, pair_hiByte_loByte]

theorem loByte_eq_ofNat {w : Word16} {k : Nat} (h : (loByte w).toNat = k) : loByte w = BitVec.ofNat 8 k := by
  rw [← h, BitVec.ofNat_toNat, BitVec.setWidth_eq]

/-- What the decoder reads from a command word is encoded with the same operation, and with the same operand where the
operation reads one (R84). -/
theorem encode_of_decodeCmd {w : Word16} {i : Instr} (h : decodeCmd w = .ok i) :
    ∃ w', encode i = some (.cmd w') ∧ loByte w' = loByte w ∧ (loByte w = 0x02#8 ∨ loByte w = 0x05#8 → w' = w) := by
  unfold decodeCmd at h
  split at h <;> cases h <;> rename_i hop <;> replace hop := loByte_eq_ofNat hop
  case h_2 | h_5 => exact ⟨_, rfl, (loByte_pair _ _).trans hop.symm, fun _ => pair_of_loByte hop⟩
  all_goals
    refine ⟨_, rfl, (loByte_pair _ _).trans hop.symm, fun hread => ?_⟩
    rw [hop] at hread
    exact absurd hread (by decide)

/-! ### Frames -/

/-- R67, R69: a request frame of the row's function code is the row. -/
@[simp] theorem decodeRequest_requestBytes (a h l hh ll c cc : Byte) :
    decodeRequest (requestBytes a h l hh ll c cc) = .ok (.rtuRequest a h l hh ll c cc) := rfl

/-- R67, R69: what decodes as a request is the eight bytes of its row. -/
theorem encode_of_decodeRequest {bytes : List Byte} {i : Instr} (h : decodeRequest bytes = .ok i) :
    i.wellFormed = true ∧ encode i = some (.frame .request bytes) := by
  unfold decodeRequest at h
  split at h
  · split at h
    · next hf =>
      cases h
      subst hf
      exact ⟨rfl, rfl⟩
    · cases h
  · cases h

/-- R70, R75: a response frame of at most 256 bytes is the row, the byte count telling the data from the CRC. -/
theorem decodeResponse_responseBytes (a : Byte) (data : List Byte) (c cc : Byte) (hlen : data.length ≤ 251) :
    decodeResponse (responseBytes a data c cc) = .ok (.rtuResponse a data c cc) := by
  have hcount : (BitVec.ofNat 8 data.length).toNat = data.length := by
    rw [BitVec.toNat_ofNat]
    omega
  simp [responseBytes, decodeResponse, hcount, show ¬253 < data.length + 2 by omega]

/-- The last two bytes of a list, after its first `n`. -/
theorem take_append_last_two {rest : List Byte} {n : Nat} (h : rest.length = n + 2) :
    rest.take n ++ [rest.getD n 0#8, rest.getD (n + 1) 0#8] = rest := by
  have hlast : rest.drop n = [rest.getD n 0#8, rest.getD (n + 1) 0#8] := by
    rw [List.drop_eq_getElem_cons (by omega), List.drop_eq_getElem_cons (by omega), List.drop_of_length_le (by omega)]
    simp [h]
  rw [← hlast, List.take_append_drop]

/-- R70, R75: what decodes as a response is the bytes of its row, at most 256 of them. -/
theorem encode_of_decodeResponse {bytes : List Byte} {i : Instr} (h : decodeResponse bytes = .ok i) :
    i.wellFormed = true ∧ encode i = some (.frame .response bytes) := by
  unfold decodeResponse at h
  split at h
  · next a f n rest =>
    split_ifs at h with hshort hlong hfunction hcount
    cases h
    have hlen : rest.length = n.toNat + 2 := not_not.mp hcount
    have htake : (rest.take n.toNat).length = n.toNat := by simp [hlen]
    refine ⟨?_, ?_⟩
    · simp only [Instr.wellFormed, decide_eq_true_eq]
      omega
    · rw [encode, responseBytes, htake, take_append_last_two hlen, BitVec.ofNat_toNat, BitVec.setWidth_eq,
        not_not.mp hfunction]
  · cases h

/-! ### Characters -/

/-- R79: the eight data bits come back in their order. -/
theorem charData_encodeChar (d : Byte) : charData (encodeChar d) = d := by
  revert d
  decide

/-- R79: start bit 0, the data, stop bit 1. -/
@[simp] theorem decodeChar_encodeChar (d : Byte) : decodeChar (encodeChar d) = .ok (.uartChar d) := by
  obtain ⟨-, hstart, hstop⟩ := Laws.EncodeShape.uartChar d
  rw [decodeChar, hstart, hstop, charData_encodeChar]
  rfl

/-- R79: ten levels with their start and stop bit are the character of their data bits. -/
theorem encodeChar_charData {levels : BitVec 10} (hstart : levels.getLsbD 9 = false) (hstop : levels.getLsbD 0 = true) :
    encodeChar (charData levels) = levels := by
  revert levels
  decide +kernel

theorem encode_of_decodeChar {levels : BitVec 10} {i : Instr} (h : decodeChar levels = .ok i) :
    encode i = some (.char levels) := by
  unfold decodeChar at h
  split_ifs at h with hstart hstop
  cases h
  rw [encode, encodeChar_charData (Bool.not_eq_true _ ▸ hstart) hstop]

/-! ### Both directions -/

/-- Settles O42: by the row. A command word decodes by its operation byte, a frame by its length and function code, a
character by its ten levels; a pseudo-operation has no bits. -/
theorem decodeOfEncodeIsTheInstruction : Obligations.DecodeOfEncodeIsTheInstruction := by
  intro i c hwf hc
  cases i with
  | crcinit => cases hc; exact decode_cmd_crcinit _
  | crcbyte b => cases hc; exact decode_cmd_crcbyte b
  | build => cases hc; exact decode_cmd_build _
  | rxclr => cases hc; exact decode_cmd_rxclr _
  | rxpush b => cases hc; exact decode_cmd_rxpush b
  | parse => cases hc; exact decode_cmd_parse _
  | openSession => cases hc; exact decode_cmd_openSession _
  | closeSession => cases hc; exact decode_cmd_closeSession _
  | xfer => cases hc; exact decode_cmd_xfer _
  | clrerr => cases hc; exact decode_cmd_clrerr _
  | rtuRequest a h l hh ll c cc => cases hc; exact decodeRequest_requestBytes a h l hh ll c cc
  | rtuResponse a data c cc => cases hc; exact decodeResponse_responseBytes a data c cc (of_decide_eq_true hwf)
  | uartChar d => cases hc; exact decodeChar_encodeChar d
  | crc16 | req | parsebytes | transact | poll | wait => cases hc

/-- Settles O43: each of the decoder's parts, read backwards. -/
theorem everyDecodedCodeIsAnEncoding : Obligations.EveryDecodedCodeIsAnEncoding := by
  refine ⟨fun kind bytes i h => ?_, fun levels i h => encode_of_decodeChar h, fun w i h => encode_of_decodeCmd h⟩
  cases kind with
  | request => exact encode_of_decodeRequest h
  | response => exact encode_of_decodeResponse h

/-- Settles O45: each code, evaluated by the decoder. -/
theorem writtenOutCodesDecode : Obligations.WrittenOutCodesDecode := by
  unfold Obligations.WrittenOutCodesDecode
  decide

end Sys2Proof
end

section
/-! PROOFS. What one action of the host can do, said once: the ten commands, the lines of its program, and the
pseudo-operations as the lines they stand for. -/

namespace Sys2Proof.Machine

/-! ### Commands -/

/-- What a performed command leaves, with the condition of its acceptance (60_exceptions R196 e to h). -/
inductive Performed (s : State) : Instr → State → Prop where
  | crcinit : Performed s .crcinit { s with crc := Config.crcInit }
  | crcbyte (b : Byte) : Performed s (.crcbyte b) { s with crc := crcStep s.crc b }
  | build (hcount : s.count.toNat ≤ 125) : Performed s .build s.buildRequest
  | rxclr : Performed s .rxclr { s.clearVerdict with rxLen := 0#9 }
  | rxpush (b : Byte) (hroom : s.rxLen.toNat ≠ 256) : Performed s (.rxpush b) (s.appendRx b).clearVerdict
  | parse : Performed s .parse s.validate
  | openSession (hclosed : s.sess = .disconnected) :
      Performed s .openSession (State.freshSession { s with sess := .connecting, result := .none, phase := .opening })
  | closeSession : Performed s .closeSession (State.freshSession { s with sess := .disconnected })
  | xfer (hopen : s.sess = .idle) (hbuilt : s.txLen = 8#4) : Performed s .xfer s.acceptXfer
  | clrerr : Performed s .clrerr { s with cmdErr := false, fErr := false }

/-- A command is refused, or the block is quiescent and performs it. -/
theorem exec_command_cases {i : Instr} {s t : State} (hi : i.isCommand = true) (h : exec i s = .next t) :
    t = s.refuse ∨ (s.busy = false ∧ Performed s i t) := by
  cases hb : s.busy with
  | true =>
    cases h.symm.trans (exec_command_busy hi hb)
    exact .inl rfl
  | false =>
    cases hlisted : commandRefused i s with
    | true =>
      cases h.symm.trans (exec_command_refused hi (by rw [hlisted, Bool.or_true]))
      exact .inl rfl
    | false =>
      refine .inr ⟨rfl, ?_⟩
      have performed {e : State} (he : exec i s = .next e) (hp : Performed s i e) : Performed s i t := by
        cases h.symm.trans he
        exact hp
      cases i with
      | crcinit => exact performed (exec_crcinit_idle hb) .crcinit
      | crcbyte b => exact performed (exec_crcbyte_idle b hb) (.crcbyte b)
      | build =>
        have hcount := Nat.not_lt.mp (of_decide_eq_false hlisted)
        exact performed (exec_build_idle hb hcount) (.build hcount)
      | rxclr => exact performed (exec_rxclr_idle hb) .rxclr
      | rxpush b =>
        have hroom : s.rxLen.toNat ≠ 256 := fun hfull => of_decide_eq_false hlisted (BitVec.eq_of_toNat_eq hfull)
        exact performed ((State.whenQuiescent_idle _ hb).trans (congrArg _ (if_neg hroom))) (.rxpush b hroom)
      | parse => exact performed (exec_parse_idle hb) .parse
      | openSession =>
        have hclosed : s.sess = .disconnected := not_not.mp (of_decide_eq_false hlisted)
        exact performed ((State.whenQuiescent_idle _ hb).trans (congrArg _ (if_pos hclosed))) (.openSession hclosed)
      | closeSession => exact performed (State.whenQuiescent_idle _ hb) .closeSession
      | xfer =>
        have hready : s.sess = .idle ∧ s.txLen = 8#4 := by simpa [commandRefused] using hlisted
        exact performed ((State.whenQuiescent_idle _ hb).trans (congrArg _ (if_pos hready)))
          (.xfer hready.1 hready.2)
      | clrerr => exact performed (State.whenQuiescent_idle _ hb) .clrerr
      | _ => cases hi

/-- All the validator writes, in every phase (41_frame_codec R109, 60_exceptions R198). -/
theorem State.validate_writes (s : State) :
    s.validate = { s with
      result := s.validate.result, crc := s.validate.crc, payLen := s.validate.payLen, slvOk := s.validate.slvOk
      funOk := s.validate.funOk, cntOk := s.validate.cntOk, sess := s.validate.sess, phase := s.validate.phase } := by
  unfold State.validate State.matchRequest
  dsimp only
  split_ifs <;> rfl

/-- All a register write can change: `CMDERR`, where it is refused, and the seven registers (10_state R36). -/
theorem State.storeReg_writes (s : State) (n : RegNum) (v : Word32) :
    s.storeReg n v = { s with
      cmdErr := (s.storeReg n v).cmdErr, crc := (s.storeReg n v).crc, slave := (s.storeReg n v).slave
      func := (s.storeReg n v).func, start := (s.storeReg n v).start, count := (s.storeReg n v).count
      baud := (s.storeReg n v).baud, timeout := (s.storeReg n v).timeout } := by
  unfold State.storeReg
  split <;> rfl

theorem State.storeReg_cmdErr (s : State) (n : RegNum) (v : Word32) (h : s.cmdErr = true) :
    (s.storeReg n v).cmdErr = true := by
  unfold State.storeReg
  split <;> simp [h]

/-! ### Lines -/

/-- What a line of the host's program can do to the state it is issued in. -/
inductive LineEffect (s : State) : Line → State → Prop where
  /-- A read, WAIT, a step of the engine, a line put back: no field of the block. -/
  | own (l : Line) (t : State) (h : t = s.withOwn t) : LineEffect s l t
  | refuse (l : Line) : LineEffect s l s.refuse
  | write (n : RegNum) (v : Word32) (hn : n ≠ 0#4) (hb : s.busy = false ∨ n = 9#4) :
      LineEffect s (.wr n v) (s.storeReg n v)
  | command (i : Instr) (t : State) (hb : s.busy = false) (h : Performed s i t) : LineEffect s (.op i) t
  | writeCmd (v : Word32) (i : Instr) (t : State) (hd : decode (.cmd (v.setWidth 16)) = .ok i) (hb : s.busy = false)
      (h : Performed s i t) : LineEffect s (.wr 0#4 v) t

theorem lineEffect_command {i : Instr} {s t : State} (hi : i.isCommand = true) (h : exec i s = .next t) :
    LineEffect s (.op i) t := by
  rcases exec_command_cases hi h with rfl | ⟨hb, hp⟩
  · exact .refuse _
  · exact .command i t hb hp

theorem lineEffect_wait {s t : State} (h : execWait s = .next t) : LineEffect s (.op .wait) t := by
  unfold execWait at h
  cases h
  refine .own _ _ ?_
  split
  · exact congrArg (·.queue [.op .wait]) (s.readReg_own 1#4)
  · exact s.readReg_own 1#4

theorem lineEffect_writeReg (s : State) {n : RegNum} (v : Word32) (hn : n ≠ 0#4) :
    LineEffect s (.wr n v) (s.writeReg n v) := by
  unfold State.writeReg
  split
  · exact .refuse _
  · next hfree =>
    refine .write n v hn ?_
    cases hb : s.busy with
    | false => exact .inl rfl
    | true => exact .inr (by_contra fun h => hfree ⟨hb, h⟩)

/-- A write of `CMD` is the command it encodes, or is refused (R14, R85). -/
theorem lineEffect_runLine_cmd {v : Word32} {s t : State} (h : runLine (.wr 0#4 v) s = .next t) :
    LineEffect s (.wr 0#4 v) t := by
  cases hword : decode (.cmd (v.setWidth 16)) with
  | error e =>
    cases h.symm.trans (runLine_cmd_error s hword)
    exact .refuse _
  | ok i =>
    have hexec : runLine (.wr 0#4 v) s = exec i s := by simp [runLine, hword]
    rcases exec_command_cases (isCommand_of_decodeCmd hword) (hexec.symm.trans h) with rfl | ⟨hb, hp⟩
    · exact .refuse _
    · exact .writeCmd v i t hword hb hp

/-- A line means the same at the host's turn and inside an expansion, but for a pseudo-operation by its mnemonic. -/
theorem issueLine_cmd_eq_runLine (v : Word32) (s : State) : issueLine (.wr 0#4 v) s = runLine (.wr 0#4 v) s := by
  simp only [issueLine, runLine, writeCmd, if_true]
  cases hword : decode (.cmd (v.setWidth 16)) with
  | error e => rfl
  | ok i => exact runMnemonic_eq_exec s (isCommand_of_decodeCmd hword)

/-- One host action is one of the effects above. -/
theorem lineEffect_issueLine {l : Line} {s t : State} (h : issueLine l s = .next t) : LineEffect s l t := by
  cases l with
  | wr n v =>
    by_cases hn : n = 0#4
    · subst hn
      exact lineEffect_runLine_cmd ((issueLine_cmd_eq_runLine v s).symm.trans h)
    · have hwrite : issueLine (.wr n v) s = .next (s.writeReg n v) := by simp [issueLine, hn]
      cases h.symm.trans hwrite
      exact lineEffect_writeReg s v hn
  | rd n =>
    cases h
    exact .own _ _ (s.readReg_own n)
  | rdbTx i => exact .own _ _ (State.readTxBuf_own h)
  | rdbRx i => exact .own _ _ (State.readRxBuf_own h)
  | engine e =>
    cases h
    exact .own _ _ (s.engineStep_own e)
  | op i =>
    cases hi : i.isCommand with
    | true => exact lineEffect_command hi ((runMnemonic_eq_exec s hi).symm.trans h)
    | false =>
      cases i with
      | wait => exact lineEffect_wait h
      | crc16 | req | parsebytes | transact | poll =>
        cases h
        exact .own _ _ rfl
      | rtuRequest | rtuResponse | uartChar => cases h
      | _ => cases hi

/-! ### Expansions -/

/-- A relation that every effect of the lines `ls` is in, and that is closed under chains and the host's own fields, holds
between the state the lines are issued in and the state they leave. -/
theorem issue_induction {R : State → State → Prop} {ls : List Line} {s t : State}
    (own : ∀ s t, t = s.withOwn t → R s t) (trans : ∀ s u t, R s u → R u t → R s t)
    (line : ∀ l ∈ ls, ∀ s t, LineEffect s l t → R s t) (h : issue ls s = .next t) : R s t := by
  induction ls generalizing s with
  | nil =>
    cases h
    exact own _ _ rfl
  | cons l ls ih =>
    simp only [issue] at h
    split at h
    · cases h
      exact own _ _ rfl
    · split at h
      · next u hu =>
        have hfirst := line l List.mem_cons_self s u (lineEffect_issueLine hu)
        exact trans _ _ _ hfirst (ih (fun l hl => line l (List.mem_cons_of_mem _ hl)) h)
      · cases h
      · cases h

/-- The lines a pseudo-operation stands for (30_encoding R87, 43_host_software R186). -/
def expansion : Instr → Option (List Line)
  | .crc16 bytes => some (crc16Lines bytes)
  | .req a f b c => some (reqLines a f b c)
  | .parsebytes bytes => some (parseLines bytes)
  | .transact a f b c => some (transactLines a f b c)
  | .poll a f b c limit => some (pollLines a f b c .registers limit)
  | .crcinit | .crcbyte _ | .build | .rxclr | .rxpush _ | .parse => none
  | .openSession | .closeSession | .xfer | .clrerr | .wait => none
  | .rtuRequest _ _ _ _ _ _ _ | .rtuResponse _ _ _ _ | .uartChar _ => none

/-- A pseudo-operation issues its lines; POLL sets the host's retry counter first (43_host_software R176). -/
theorem exec_expansion {i : Instr} {ls : List Line} (hi : expansion i = some ls) (s : State) :
    ∃ u, u = s.withOwn u ∧ exec i s = issue ls u := by
  cases i with
  | crc16 | req | parsebytes | transact =>
    cases hi
    exact ⟨s, rfl, rfl⟩
  | poll =>
    cases hi
    exact ⟨{ s with retries := 0 }, rfl, rfl⟩
  | _ => cases hi

/-- What every line of its expansion does, a pseudo-operation does. -/
theorem exec_expansion_induction {R : State → State → Prop} {i : Instr} {ls : List Line} {s t : State}
    (hi : expansion i = some ls) (own : ∀ s t, t = s.withOwn t → R s t) (trans : ∀ s u t, R s u → R u t → R s t)
    (line : ∀ l ∈ ls, ∀ s t, LineEffect s l t → R s t) (h : exec i s = .next t) : R s t := by
  obtain ⟨u, hu, hexec⟩ := exec_expansion hi s
  exact trans _ _ _ (own _ _ hu) (issue_induction own trans line (hexec.symm.trans h))

/-- The lines expansions are made of: no CLOSE, no OPEN, no CLRERR, and no command written to `CMD`. -/
def Line.inExpansion : Line → Bool
  | .wr n _ => decide (n ≠ 0#4)
  | .rd _ => true
  | .op i =>
    match i with
    | .crcinit | .crcbyte _ | .build | .rxclr | .rxpush _ | .parse | .xfer | .wait => true
    | _ => false
  | .engine (.pollCheck _ _ _) => true
  | _ => false

theorem inExpansion_of_mem {i : Instr} {ls : List Line} (hi : expansion i = some ls) : ∀ l ∈ ls, l.inExpansion = true := by
  cases i with
  | crc16 | req | parsebytes | transact | poll =>
    cases hi
    simp [crc16Lines, reqLines, parseLines, transactLines, pollLines, attemptLines, byteLines, Line.inExpansion, or_imp,
      forall_and]
  | _ => cases hi

/-- At the host's turn a line has one of the effects above, or is a pseudo-operation by its mnemonic. -/
theorem runLine_cases {l : Line} {s t : State} (h : runLine l s = .next t) :
    LineEffect s l t ∨ ∃ i ls, l = .op i ∧ expansion i = some ls ∧ exec i s = .next t := by
  cases l with
  | wr n v =>
    by_cases hn : n = 0#4
    · subst hn
      exact .inl (lineEffect_runLine_cmd h)
    · have hwrite : runLine (.wr n v) s = .next (s.writeReg n v) := by simp [runLine, issueLine, hn]
      cases h.symm.trans hwrite
      exact .inl (lineEffect_writeReg s v hn)
  | rd n => exact .inl (lineEffect_issueLine (l := .rd n) h)
  | rdbTx i => exact .inl (lineEffect_issueLine (l := .rdbTx i) h)
  | rdbRx i => exact .inl (lineEffect_issueLine (l := .rdbRx i) h)
  | engine e => exact .inl (lineEffect_issueLine (l := .engine e) h)
  | op i =>
    cases hw : i.isWire with
    | true => simp [runLine, hw] at h
    | false =>
      have hexec : exec i s = .next t := by simpa [runLine, hw] using h
      cases hi : i.isCommand with
      | true => exact .inl (lineEffect_command hi hexec)
      | false =>
        cases i with
        | wait => exact .inl (lineEffect_wait hexec)
        | crc16 | req | parsebytes | transact | poll => exact .inr ⟨_, _, rfl, rfl, hexec⟩
        | rtuRequest | rtuResponse | uartChar => cases hw
        | _ => cases hi

end Sys2Proof.Machine
end

section
/-! PROOFS. What one answer of the environment can do, said once: the steps of the sequencer, the traffic on the line, the
host's turn. -/

namespace Sys2Proof.Machine

/-! ### The sequencer -/

/-- The small steps of the sequencer, each with its guard (42_uart_transceiver R134 to R143). -/
inductive SequencerEffect (s : State) : State → Prop where
  /-- No step is enabled. -/
  | stay (h : s.phase = .idle ∨ (s.phase = .tx ∧ 8 < s.txIdx.toNat) ∨
      (s.phase = .rx ∧ s.rxLen.toNat ≠ s.expLen.toNat)) : SequencerEffect s s
  | openSucceeds (h : s.phase = .opening) : SequencerEffect s s.openSucceeds
  | openFails (h : s.phase = .opening) : SequencerEffect s s.openFails
  | send (h : s.phase = .tx) (hidx : s.txIdx.toNat < 8) : SequencerEffect s s.sendByte
  | endWrite (h : s.phase = .tx) (hidx : s.txIdx.toNat = 8) : SequencerEffect s s.endWrite
  | fatalTx (h : s.phase = .tx) : SequencerEffect s s.fatalTx
  | endRead (h : s.phase = .rx) : SequencerEffect s s.endRead
  | readTimeout (h : s.phase = .rx) : SequencerEffect s s.readTimeout
  | fatalRx (h : s.phase = .rx) : SequencerEffect s s.fatalRx
  | check (h : s.phase = .check) : SequencerEffect s s.checkFrame

theorem sequencerStep_cases (s : State) (linkOk : Bool) : SequencerEffect s (s.sequencerStep linkOk) := by
  unfold State.sequencerStep
  split
  · next hp => exact .stay (.inl hp)
  · next hp =>
    split
    · exact .openSucceeds hp
    · exact .openFails hp
  · next hp =>
    split_ifs with hlink hlt heq
    · exact .fatalTx hp
    · exact .send hp hlt
    · exact .endWrite hp heq
    · exact .stay (.inr (.inl ⟨hp, by omega⟩))
  · next hp =>
    split_ifs with hlink heq hexpired
    · exact .fatalRx hp
    · exact .endRead hp
    · exact .readTimeout hp
    · exact .stay (.inr (.inr ⟨hp, heq⟩))
  · next hp => exact .check hp

/-- Time passing moves the read timer alone. -/
theorem State.advanceTimer_writes (s : State) (ms : Nat) :
    s.advanceTimer ms = { s with timer := (s.advanceTimer ms).timer } := by
  unfold State.advanceTimer
  split <;> rfl

/-- All the validate step writes (42_uart_transceiver R143). -/
theorem State.checkFrame_writes (s : State) :
    s.checkFrame = { s with
      result := s.checkFrame.result, crc := s.checkFrame.crc, payLen := s.checkFrame.payLen
      slvOk := s.checkFrame.slvOk, funOk := s.checkFrame.funOk, cntOk := s.checkFrame.cntOk
      sess := .idle, phase := .idle } := by
  unfold State.checkFrame
  rw [s.validate_writes]

/-! ### The line -/

/-- All the receiver writes. -/
theorem State.receiveBytes_writes (bytes : List Byte) (s : State) :
    s.receiveBytes bytes = { s with
      rxBuf := (s.receiveBytes bytes).rxBuf, rxLen := (s.receiveBytes bytes).rxLen
      hist := (s.receiveBytes bytes).hist } := by
  induction bytes generalizing s with
  | nil => rfl
  | cons b bytes ih =>
    have hbyte : s.receiveByte b = { s with
        rxBuf := (s.receiveByte b).rxBuf, rxLen := (s.receiveByte b).rxLen, hist := (s.receiveByte b).hist } := by
      unfold State.receiveByte
      split <;> rfl
    rw [State.receiveBytes, ih, hbyte]

/-- What sending bytes does below index 8: each is recorded in index order (R136). -/
theorem State.sendBytes_eq (n i : Nat) (s : State) (hi : s.txIdx.toNat = i) (h : i + n ≤ 8) :
    s.sendBytes n = { s with
      txIdx := BitVec.ofNat 4 (i + n)
      hist := s.hist ++ (List.range n).map fun k => .txByte (s.txByte (i + k)) } := by
  induction n generalizing s i with
  | zero =>
    subst hi
    simp [State.sendBytes]
  | succ n ih =>
    have hnext : s.sendByte.txIdx.toNat = i + 1 := by
      change (s.txIdx + 1#4).toNat = i + 1
      rw [BitVec.toNat_add, BitVec.toNat_ofNat]
      omega
    have hbyte : s.sendByte.hist = s.hist ++ [.txByte (s.txByte i)] := by
      rw [← hi]
      rfl
    have hshift (k : Nat) : i + 1 + k = i + (k + 1) := by omega
    have hlater : (s.hist ++ [.txByte (s.txByte i)]) ++ (List.range n).map (fun k => .txByte (s.txByte (i + 1 + k))) =
        s.hist ++ (List.range (n + 1)).map fun k => .txByte (s.txByte (i + k)) := by
      simp [List.range_succ_eq_map, Function.comp_def, hshift]
    rw [State.sendBytes, ih (i + 1) s.sendByte hnext (by omega), hbyte, ← hlater, ← hshift n]
    rfl

/-- The first `n` bytes of a write. -/
theorem State.sendBytes_begin {n : Nat} {s : State} (hidx : s.txIdx = 0#4) (h : n ≤ 8) :
    s.sendBytes n = { s with
      txIdx := BitVec.ofNat 4 n, hist := s.hist ++ (s.txBytes n).map .txByte } := by
  have hsent := State.sendBytes_eq n 0 s (by rw [hidx]; rfl) (by omega)
  simpa only [Nat.zero_add, State.txBytes, List.map_map, Function.comp_def] using hsent

/-- All that sending the whole request writes (42_uart_transceiver R136, R137). -/
theorem State.sendBytes_endWrite_writes (s : State) :
    (s.sendBytes 8).endWrite = { s with
      txIdx := (s.sendBytes 8).txIdx, hist := (s.sendBytes 8).endWrite.hist, phase := .rx, timer := some 0 } := by
  have hframe := State.sendBytes_frame 8 s
  generalize s.sendBytes 8 = u at hframe ⊢
  rw [hframe]
  rfl

/-- What traffic on the line can do. -/
inductive WireEffect (s : State) : State → Prop where
  | ignored : WireEffect s s
  | received (bytes : List Byte) : WireEffect s (s.receiveBytes bytes)
  | badStop (b : Byte) (h : s.receiving = true) : WireEffect s { s.receiveBytes [b] with fErr := true }
  | sent (frame : List Byte) (h : s.aboutToSend frame = true) : WireEffect s (s.sendBytes 8).endWrite

theorem State.aboutToSend_eq_true (s : State) (frame : List Byte) :
    s.aboutToSend frame = true ↔ s.phase = .tx ∧ s.txIdx = 0#4 ∧ s.txBytes 8 = frame := by
  simp [State.aboutToSend, and_assoc]

/-- A row of the line means that its bytes pass: where the block is about to send them they go out, else they reach the
receiver (log 12, 13). -/
theorem exec_of_encode_frame {i : Instr} {kind : FrameKind} {bytes : List Byte}
    (h : encode i = some (.frame kind bytes)) (s : State) :
    exec i s = .next (if kind = .request ∧ s.aboutToSend bytes = true then (s.sendBytes 8).endWrite
      else s.receiveBytes bytes) := by
  cases i with
  | rtuRequest a h l hh ll c cc =>
    cases h
    simp only [exec, execRtuRequest, true_and]
    split <;> rfl
  | rtuResponse a data c cc =>
    cases h
    rfl
  | _ => cases h

/-- A frame on the line that is not what the block is about to send reaches the receiver, whatever it decodes to. -/
theorem lineFrame_received {kind : FrameKind} {bytes : List Byte} {s : State}
    (h : kind = .response ∨ s.aboutToSend bytes = false ∨ ∃ e, decode (.frame kind bytes) = .error e) :
    lineFrame kind bytes s = .next (s.receiveBytes bytes) := by
  unfold lineFrame
  split
  · next i hi =>
    have hencode := (everyDecodedCodeIsAnEncoding.1 kind bytes i hi).2
    rw [exec_of_encode_frame hencode, if_neg]
    rintro ⟨hkind, habout⟩
    rcases h with h | h | ⟨e, he⟩
    · cases hkind.symm.trans h
    · cases h.symm.trans habout
    · cases he.symm.trans hi
  · rfl

theorem wireEffect_frame {kind : FrameKind} {bytes : List Byte} {s t : State} (h : lineFrame kind bytes s = .next t) :
    WireEffect s t := by
  unfold lineFrame at h
  split at h
  · next i hi =>
    have hencode := (everyDecodedCodeIsAnEncoding.1 kind bytes i hi).2
    cases h.symm.trans (exec_of_encode_frame hencode s)
    split
    · next habout => exact .sent bytes habout.2
    · exact .received bytes
  · cases h
    exact .received bytes

theorem lineChar_noStart {levels : BitVec 10} (s : State) (hstart : levels.getLsbD 9 = true) :
    lineChar levels s = .next s := by
  simp only [lineChar, decode, decodeChar, hstart, if_true]

theorem lineChar_good {levels : BitVec 10} (s : State) (hstart : levels.getLsbD 9 = false)
    (hstop : levels.getLsbD 0 = true) : lineChar levels s = .next (s.receiveByte (charData levels)) := by
  simp only [lineChar, decode, decodeChar, hstart, hstop, if_true, Bool.false_eq_true, if_false]
  rfl

theorem lineChar_badStop {levels : BitVec 10} (s : State) (hstart : levels.getLsbD 9 = false)
    (hstop : levels.getLsbD 0 = false) : lineChar levels s = .next (s.receiveBadStop (charData levels)) := by
  simp only [lineChar, decode, decodeChar, hstart, hstop, Bool.false_eq_true, if_false]

theorem wireEffect_char {levels : BitVec 10} {s t : State} (h : lineChar levels s = .next t) : WireEffect s t := by
  cases hstart : levels.getLsbD 9 with
  | true =>
    cases h.symm.trans (lineChar_noStart s hstart)
    exact .ignored
  | false =>
    cases hstop : levels.getLsbD 0 with
    | true =>
      cases h.symm.trans (lineChar_good s hstart hstop)
      exact .received [charData levels]
    | false =>
      cases h.symm.trans (lineChar_badStop s hstart hstop)
      unfold State.receiveBadStop
      split
      · next hr => exact .badStop _ hr
      · exact .ignored

/-- An instruction has the effect of one line, or is an expansion, or passes on the line. -/
theorem exec_cases {i : Instr} {s t : State} (h : exec i s = .next t) :
    LineEffect s (.op i) t ∨ (∃ ls, expansion i = some ls) ∨ (i.isWire = true ∧ WireEffect s t) := by
  cases hi : i.isCommand with
  | true => exact .inl (lineEffect_command hi h)
  | false =>
    cases i with
    | wait => exact .inl (lineEffect_wait h)
    | crc16 | req | parsebytes | transact | poll => exact .inr (.inl ⟨_, rfl⟩)
    | rtuRequest a sh sl ch cl c cc =>
      have hframe := wireEffect_frame (kind := .request) (bytes := requestBytes a sh sl ch cl c cc) h
      exact .inr (.inr ⟨rfl, hframe⟩)
    | rtuResponse a data c cc =>
      cases h
      exact .inr (.inr ⟨rfl, .received _⟩)
    | uartChar d =>
      cases h
      exact .inr (.inr ⟨rfl, .received [d]⟩)
    | _ => cases hi

/-! ### The environment's answers -/

/-- What an answer of the environment can do. -/
inductive EventEffect (s : State) : Event → State → Prop where
  | line (l : Line) (rest : List Line) (t : State) (hprog : s.prog = l :: rest)
      (h : runLine l { s with prog := rest } = .next t) : EventEffect s .host t
  /-- The end of the host's program, a stop request, a swap of the selected module: no field of the block. -/
  | own (e : Event) (t : State) (h : t = s.withOwn t) : EventEffect s e t
  | sequencer (e : Event) (u t : State) (hturn : isSequencerTurn e = true) (hu : u = { s with timer := u.timer })
      (h : SequencerEffect u t) : EventEffect s e t
  | wire (e : Event) (t : State) (h : WireEffect s t) : EventEffect s e t
  | reset : EventEffect s .reset s.resetBlock

theorem runEvent_cases {e : Event} {s t : State} (h : runEvent e s = .next t) : EventEffect s e t := by
  cases e with
  | host =>
    simp only [runEvent, hostTurn] at h
    split at h
    · cases h
      refine .own _ _ ?_
      unfold State.orLeave
      split <;> rfl
    · next l rest hprog => exact .line l rest t hprog h
  | tick ms =>
    cases h
    exact .sequencer _ (s.advanceTimer ms) _ rfl (s.advanceTimer_writes ms) (sequencerStep_cases _ _)
  | linkDown =>
    cases h
    exact .sequencer _ s _ rfl rfl (sequencerStep_cases _ _)
  | char levels => exact .wire _ _ (wireEffect_char h)
  | frame kind bytes => exact .wire _ _ (wireEffect_frame h)
  | reset =>
    cases h
    exact .reset
  | selectModule m =>
    cases h
    exact .own _ _ rfl
  | stopRequest =>
    cases h
    exact .own _ _ s.requestStop_own

/-- A step is the next answer, taken off the script or drawn. -/
theorem step_eq_runEvent (s : State) : ∃ u, u = s.withOwn u ∧ u.prog = s.prog ∧ step s = runEvent (nextEvent s) u := by
  cases henv : s.env with
  | cons e rest => exact ⟨{ s with env := rest }, rfl, rfl, by simp [step_of_env henv, nextEvent, henv]⟩
  | nil =>
    cases hb : s.busy with
    | false => exact ⟨s, rfl, rfl, by simp [step_quiescent henv hb, nextEvent, henv, hb, runEvent]⟩
    | true => exact ⟨s.drawn, rfl, rfl, by simp [step_free henv hb, nextEvent, henv, hb]⟩

end Sys2Proof.Machine
end

section
/-! PROOFS. What every step keeps: the canonical form of the buffers, the invariant of the machine. -/

namespace Sys2Proof.Machine

/-! ### The canonical form of the buffers -/

theorem State.memWf_iff (s : State) : s.memWf = true ↔ s.txBuf.wf Config.txCap = true ∧ s.rxBuf.wf Config.rxCap = true := by
  simp [State.memWf]

theorem State.memWf_buildRequest {s : State} (h : s.memWf = true) : s.buildRequest.memWf = true := by
  obtain ⟨htx, hrx⟩ := s.memWf_iff.mp h
  exact (State.memWf_iff _).mpr ⟨Memory.wf_writeList _ htx (le_refl 8), hrx⟩

theorem State.memWf_appendRx {s : State} (b : Byte) (h : s.memWf = true) : (s.appendRx b).memWf = true := by
  obtain ⟨htx, hrx⟩ := s.memWf_iff.mp h
  exact (State.memWf_iff _).mpr ⟨htx, Memory.wf_writeBelow _ b hrx⟩

theorem memWf_move (s t : State) (h : s.memWf = true) (m : Move s t) : t.memWf = true := by
  cases m with
  | own _ ht =>
    rw [ht]
    exact h
  | build => exact State.memWf_buildRequest h
  | rxpush b => exact State.memWf_appendRx b h
  | receive b => exact State.memWf_appendRx b h
  | parse =>
    rw [s.validate_writes]
    exact h
  | check =>
    rw [s.checkFrame_writes]
    exact h
  | reset => exact State.reset_memWf
  | _ => exact h

/-- Settles O50: BUILD writes inside `TXBUF`, RXPUSH and the receiver write inside `RXBUF`, and no other move touches a
buffer. -/
theorem stepKeepsTheBuffersCanonical : Obligations.StepKeepsTheBuffersCanonical :=
  fun _ _ h hstep => step_keeps memWf_move h hstep

/-! ### The parts of the invariant -/

/-- What the invariant says of the buffers and their lengths, in every phase. -/
structure State.BuffersHeld (s : State) : Prop where
  memWf : s.memWf = true
  built : (s.txLen = 0#4 ∧ s.expLen = 0#9) ∨
    (s.txLen = 8#4 ∧ (pair (s.txByte 4) (s.txByte 5)).toNat ≤ 125 ∧
      s.expLen.toNat = 5 + 2 * (pair (s.txByte 4) (s.txByte 5)).toNat)
  request : s.txLen = 8#4 → (∀ i, i < 8 → (s.txBuf.read i).isSome = true) ∧ s.txBytes 8 = withCrc (s.txBytes 6)
  rxLen : s.rxLen.toNat ≤ 256
  received : ∀ i, i < s.rxLen.toNat → (s.rxBuf.read i).isSome = true

/-- What holds from the acceptance of XFER to the end of its transaction (R127, R57). -/
structure State.Transacting (s : State) : Prop where
  session : s.sess = .awaitingResponse
  built : s.txLen = 8#4
  noResult : s.result = .none
  noVerdict : s.tmo = false ∧ s.payLen = 0#8 ∧ s.slvOk = false ∧ s.funOk = false ∧ s.cntOk = false

variable {s t : State}

theorem State.Inv.buffersHeld (h : s.Inv) : s.BuffersHeld := ⟨h.memWf, h.built, h.request, h.rxLen, h.received⟩

/-- The session states of a phase (R16, R37). -/
def Phase.sessions : Phase → List Session
  | .idle => [.disconnected, .idle]
  | .opening => [.connecting]
  | .tx | .rx | .check => [.awaitingResponse]

theorem disconnected_mem_sessions : Session.disconnected ∈ Phase.idle.sessions := by decide

theorem idle_mem_sessions : Session.idle ∈ Phase.idle.sessions := by decide

theorem sessionAgrees_iff (a : Session) (p : Phase) : sessionAgrees a p = true ↔ a ∈ p.sessions := by
  cases p <;> cases a <;> decide

theorem State.Inv.transacting (h : s.Inv) (hp : s.inTransaction = true) : s.Transacting := by
  have hphase : s.phase = .tx ∨ s.phase = .rx ∨ s.phase = .check := by
    simpa [State.inTransaction, or_assoc] using hp
  have hsession := (sessionAgrees_iff _ _).mp h.session
  have hbusy : s.busy = true := by
    rcases hphase with hp | hp | hp <;> simp [State.busy, hp]
  refine ⟨?_, h.transaction hp, h.noResult hbusy, h.noVerdict hp⟩
  rcases hphase with hp | hp | hp <;> simpa [hp, Phase.sessions] using hsession

theorem State.Inv.transacting_tx (h : s.Inv) (hp : s.phase = .tx) : s.Transacting :=
  h.transacting (by simp [State.inTransaction, hp])

theorem State.Inv.transacting_rx (h : s.Inv) (hp : s.phase = .rx) : s.Transacting :=
  h.transacting (by simp [State.inTransaction, hp])

theorem State.Inv.timer_none (h : s.Inv) (hp : s.phase ≠ .rx) : s.timer = none := by
  simpa [hp] using h.timer

/-- With a request built, its answer fits the buffer (R32). -/
theorem State.BuffersHeld.expLen_lt (h : s.BuffersHeld) : s.expLen.toNat < 256 := by
  rcases h.built with ⟨-, hzero⟩ | ⟨-, hcount, hexp⟩
  · simp [hzero]
  · omega

/-! ### The invariant, phase by phase -/

theorem State.Inv.of_idle (h : s.BuffersHeld) (hp : s.phase = .idle) (hs : s.sess ∈ Phase.idle.sessions)
    (ht : s.timer = none) : s.Inv where
  memWf := h.memWf
  session := (sessionAgrees_iff _ _).mpr (hp ▸ hs)
  timer := by simp [ht, hp]
  built := h.built
  request := h.request
  rxLen := h.rxLen
  received := h.received
  transaction := by simp [State.inTransaction, hp]
  sending := by simp [hp]
  receiving := by simp [hp]
  checking := by simp [hp]
  noResult := by simp [State.busy, hp]
  noVerdict := by simp [State.inTransaction, hp]

theorem State.Inv.of_opening (h : s.BuffersHeld) (hp : s.phase = .opening) (hs : s.sess = .connecting)
    (ht : s.timer = none) (hr : s.result = .none) : s.Inv where
  memWf := h.memWf
  session := by simp [hp, hs, sessionAgrees]
  timer := by simp [ht, hp]
  built := h.built
  request := h.request
  rxLen := h.rxLen
  received := h.received
  transaction := by simp [State.inTransaction, hp]
  sending := by simp [hp]
  receiving := by simp [hp]
  checking := by simp [hp]
  noResult := fun _ => hr
  noVerdict := by simp [State.inTransaction, hp]

theorem State.Inv.of_tx (h : s.BuffersHeld) (hx : s.Transacting) (hp : s.phase = .tx) (ht : s.timer = none)
    (hsend : s.txIdx.toNat ≤ 8 ∧ s.rxLen = 0#9) : s.Inv where
  memWf := h.memWf
  session := by simp [hp, hx.session, sessionAgrees]
  timer := by simp [ht, hp]
  built := h.built
  request := h.request
  rxLen := h.rxLen
  received := h.received
  transaction := fun _ => hx.built
  sending := fun _ => hsend
  receiving := by simp [hp]
  checking := by simp [hp]
  noResult := fun _ => hx.noResult
  noVerdict := fun _ => hx.noVerdict

theorem State.Inv.of_rx (h : s.BuffersHeld) (hx : s.Transacting) (hp : s.phase = .rx)
    (ht : s.timer.isSome = true) (hl : s.rxLen.toNat ≤ s.expLen.toNat) : s.Inv where
  memWf := h.memWf
  session := by simp [hp, hx.session, sessionAgrees]
  timer := by simp [ht, hp]
  built := h.built
  request := h.request
  rxLen := h.rxLen
  received := h.received
  transaction := fun _ => hx.built
  sending := by simp [hp]
  receiving := fun _ => hl
  checking := by simp [hp]
  noResult := fun _ => hx.noResult
  noVerdict := fun _ => hx.noVerdict

theorem State.Inv.of_check (h : s.BuffersHeld) (hx : s.Transacting) (hp : s.phase = .check)
    (ht : s.timer = none) (hl : s.rxLen = s.expLen) : s.Inv where
  memWf := h.memWf
  session := by simp [hp, hx.session, sessionAgrees]
  timer := by simp [ht, hp]
  built := h.built
  request := h.request
  rxLen := h.rxLen
  received := h.received
  transaction := fun _ => hx.built
  sending := by simp [hp]
  receiving := by simp [hp]
  checking := fun _ => hl
  noResult := fun _ => hx.noResult
  noVerdict := fun _ => hx.noVerdict

/-! ### The buffers after a move -/

/-- The facts of the buffers depend on the buffers and their lengths alone. -/
theorem State.BuffersHeld.congr (h : s.BuffersHeld) (htx : t.txBuf = s.txBuf) (hrx : t.rxBuf = s.rxBuf)
    (htl : t.txLen = s.txLen) (hel : t.expLen = s.expLen) (hrl : t.rxLen = s.rxLen) : t.BuffersHeld := by
  have hbyte : t.txByte = s.txByte := funext fun i => by rw [State.txByte, State.txByte, htx]
  obtain ⟨hwf, hbuilt, hrequest, hlen, hreceived⟩ := h
  refine ⟨?_, ?_, ?_, ?_, ?_⟩
  · rw [State.memWf_iff, htx, hrx, ← State.memWf_iff]
    exact hwf
  · rw [htl, hel, hbyte]
    exact hbuilt
  · rw [htl, htx, State.txBytes, State.txBytes, hbyte]
    exact hrequest
  · rw [hrl]
    exact hlen
  · rw [hrl, hrx]
    exact hreceived

theorem State.BuffersHeld.rxCleared (h : s.BuffersHeld) : State.BuffersHeld { s with rxLen := 0#9 } :=
  ⟨h.memWf, h.built, h.request, Nat.zero_le _, fun _ hi => absurd hi (Nat.not_lt_zero _)⟩

theorem State.BuffersHeld.appendRx (h : s.BuffersHeld) (b : Byte) (hroom : s.rxLen.toNat < 256) :
    (s.appendRx b).BuffersHeld where
  memWf := State.memWf_appendRx b h.memWf
  built := h.built
  request := h.request
  rxLen := by
    rw [State.appendRx_rxLen_toNat b hroom]
    omega
  received := fun i hi => by
    rw [State.appendRx_rxLen_toNat b hroom] at hi
    rw [State.appendRx_read b hroom]
    split
    · rfl
    · exact h.received i (by omega)

/-- The eight bytes BUILD leaves. -/
theorem State.buildRequest_read_lt (s : State) {i : Nat} (h : i < 8) :
    s.buildRequest.txBuf.read i = (requestFrame s.slave s.func s.start s.count)[i]? := by
  show (s.txBuf.writeList 0 _).read i = _
  rw [Memory.read_writeList, requestFrame_length, if_pos (by omega), Nat.sub_zero]

theorem State.BuffersHeld.buildRequest (h : s.BuffersHeld) (hcount : s.count.toNat ≤ 125) :
    s.buildRequest.BuffersHeld := by
  have hpair : pair (s.buildRequest.txByte 4) (s.buildRequest.txByte 5) = s.count := by
    simp [State.txByte, State.buildRequest_read_lt, requestFrame, withCrc, requestHeader]
  refine ⟨State.memWf_buildRequest h.memWf, .inr ⟨rfl, ?_, ?_⟩, fun _ => ⟨fun i hi => ?_, ?_⟩, h.rxLen, h.received⟩
  · rw [hpair]
    exact hcount
  · rw [hpair, s.buildRequest_expLen hcount]
  · rw [s.buildRequest_read_lt hi, List.getElem?_eq_getElem (by rw [requestFrame_length]; exact hi)]
    rfl
  · rw [s.buildRequest_txBytes, s.buildRequest_txBytes6]
    rfl

/-! ### The invariant after a move -/

/-- `s` with the fields of `t` that the invariant does not speak of. -/
def State.withFree (s t : State) : State :=
  { s.withOwn t with
    cmdErr := t.cmdErr, fErr := t.fErr, crc := t.crc, slave := t.slave, func := t.func, start := t.start
    count := t.count, baud := t.baud, timeout := t.timeout, aBaud := t.aBaud, hist := t.hist }

theorem State.Inv.withFree (h : s.Inv) (t : State) : (s.withFree t).Inv :=
  ⟨h.memWf, h.session, h.timer, h.built, h.request, h.rxLen, h.received, h.transaction, h.sending, h.receiving,
    h.checking, h.noResult, h.noVerdict⟩

theorem State.Inv.of_withFree (h : s.Inv) (ht : t = s.withFree t) : t.Inv := by
  rw [ht]
  exact h.withFree t

theorem inv_reset : State.reset.Inv := by
  have hbuffers : State.reset.BuffersHeld :=
    ⟨State.reset_memWf, .inl ⟨rfl, rfl⟩, fun h => absurd h (by decide), by decide,
      fun _ hi => absurd hi (Nat.not_lt_zero _)⟩
  exact .of_idle hbuffers rfl disconnected_mem_sessions rfl

/-- Settles O52: after reset the buffers list nothing and the block is quiescent. -/
theorem resetMeetsTheInvariant : Obligations.ResetMeetsTheInvariant := inv_reset

/-- Every move keeps the invariant: a move is judged in the phase it ends in, where the buffers' facts and a few fields are
all there is to show. -/
theorem inv_move (s t : State) (h : s.Inv) (m : Move s t) : t.Inv := by
  have hbuffers := h.buffersHeld
  have hquiescent (hb : s.busy = false) :
      s.phase = .idle ∧ s.sess ∈ Phase.idle.sessions ∧ s.timer = none := by
    have hp : s.phase = .idle := s.busy_eq_false.mp hb
    exact ⟨hp, hp ▸ (sessionAgrees_iff _ _).mp h.session, h.timer_none (by simp [hp])⟩
  cases m with
  | own _ ht =>
    rw [ht]
    exact .of_withFree h rfl
  | refuse | registers | timeout | clrerr | badStop => exact .of_withFree h rfl
  | build hb hcount =>
    obtain ⟨hp, hs, ht⟩ := hquiescent hb
    exact .of_idle (hbuffers.buildRequest hcount) hp hs ht
  | rxclr hb =>
    obtain ⟨hp, hs, ht⟩ := hquiescent hb
    exact .of_idle (.congr hbuffers.rxCleared rfl rfl rfl rfl rfl) hp hs ht
  | rxpush b hb hroom =>
    obtain ⟨hp, hs, ht⟩ := hquiescent hb
    have hlt : s.rxLen.toNat < 256 := lt_of_le_of_ne h.rxLen hroom
    exact .of_idle (.congr (hbuffers.appendRx b hlt) rfl rfl rfl rfl rfl) hp hs ht
  | parse hb =>
    obtain ⟨hp, hs, ht⟩ := hquiescent hb
    rw [State.validate_frame hp]
    exact .of_idle (.congr hbuffers rfl rfl rfl rfl rfl) hp hs ht
  | opening hb =>
    obtain ⟨-, -, ht⟩ := hquiescent hb
    exact .of_opening (.congr hbuffers rfl rfl rfl rfl rfl) rfl rfl ht rfl
  | close hb =>
    obtain ⟨hp, -, ht⟩ := hquiescent hb
    exact .of_idle (.congr hbuffers rfl rfl rfl rfl rfl) hp disconnected_mem_sessions ht
  | xfer hb _ hbuilt =>
    obtain ⟨-, -, ht⟩ := hquiescent hb
    have hx : s.acceptXfer.Transacting := ⟨rfl, hbuilt, rfl, rfl, rfl, rfl, rfl, rfl⟩
    exact .of_tx (.congr hbuffers.rxCleared rfl rfl rfl rfl rfl) hx rfl ht ⟨Nat.zero_le _, rfl⟩
  | openSucceeds hp =>
    exact .of_idle (.congr hbuffers rfl rfl rfl rfl rfl) rfl idle_mem_sessions (h.timer_none (by simp [hp]))
  | openFails hp =>
    exact .of_idle (.congr hbuffers rfl rfl rfl rfl rfl) rfl disconnected_mem_sessions (h.timer_none (by simp [hp]))
  | send hp hidx =>
    obtain ⟨hsession, hbuilt, hresult, hverdict⟩ := h.transacting_tx hp
    have hnext : s.sendByte.txIdx.toNat ≤ 8 := by
      change (s.txIdx + 1#4).toNat ≤ 8
      rw [BitVec.toNat_add, BitVec.toNat_ofNat]
      omega
    exact .of_tx (.congr hbuffers rfl rfl rfl rfl rfl) ⟨hsession, hbuilt, hresult, hverdict⟩ hp
      (h.timer_none (by simp [hp])) ⟨hnext, (h.sending hp).2⟩
  | endWrite hp =>
    obtain ⟨hsession, hbuilt, hresult, hverdict⟩ := h.transacting_tx hp
    have hlen : s.rxLen.toNat ≤ s.expLen.toNat := by simp [(h.sending hp).2]
    exact .of_rx (.congr hbuffers rfl rfl rfl rfl rfl) ⟨hsession, hbuilt, hresult, hverdict⟩ rfl rfl hlen
  | fatalTx => exact .of_idle (.congr hbuffers rfl rfl rfl rfl rfl) rfl disconnected_mem_sessions rfl
  | time n hp =>
    obtain ⟨hsession, hbuilt, hresult, hverdict⟩ := h.transacting_rx hp
    exact .of_rx (.congr hbuffers rfl rfl rfl rfl rfl) ⟨hsession, hbuilt, hresult, hverdict⟩ hp rfl (h.receiving hp)
  | receive b hr =>
    obtain ⟨hp, hlt⟩ := s.receiving_eq_true.mp hr
    obtain ⟨hsession, hbuilt, hresult, hverdict⟩ := h.transacting_rx hp
    have hroom : s.rxLen.toNat < 256 := hlt.trans hbuffers.expLen_lt
    have hlen : (s.appendRx b).rxLen.toNat ≤ s.expLen.toNat := by
      rw [State.appendRx_rxLen_toNat b hroom]
      exact hlt
    have htimer : s.timer.isSome = true := by simpa [hp] using h.timer
    exact .of_rx (.congr (hbuffers.appendRx b hroom) rfl rfl rfl rfl rfl) ⟨hsession, hbuilt, hresult, hverdict⟩ hp
      htimer hlen
  | endRead hp hlen =>
    obtain ⟨hsession, hbuilt, hresult, hverdict⟩ := h.transacting_rx hp
    exact .of_check (.congr hbuffers rfl rfl rfl rfl rfl) ⟨hsession, hbuilt, hresult, hverdict⟩ rfl rfl
      (BitVec.eq_of_toNat_eq hlen)
  | readTimeout => exact .of_idle (.congr hbuffers rfl rfl rfl rfl rfl) rfl idle_mem_sessions rfl
  | fatalRx => exact .of_idle (.congr hbuffers rfl rfl rfl rfl rfl) rfl disconnected_mem_sessions rfl
  | check hp =>
    rw [s.checkFrame_writes]
    exact .of_idle (.congr hbuffers rfl rfl rfl rfl rfl) rfl idle_mem_sessions (h.timer_none (by simp [hp]))
  | reset => exact .of_withFree inv_reset rfl

/-- Settles O51: every step is a chain of moves, and every move keeps the invariant. -/
theorem stepKeepsTheInvariant : Obligations.StepKeepsTheInvariant := fun _ _ h hstep => step_keeps inv_move h hstep

end Sys2Proof.Machine
end

section
/-! PROOFS. The session moves only along its transitions (42_uart_transceiver R131). -/

namespace Sys2Proof.Machine

variable {s t : State}

/-- A step along the table of R131, or none. -/
def SessionStep (s t : State) : Prop := s.sess = t.sess ∨ (s.sess, t.sess) ∈ sessionTransitions

theorem SessionStep.of_eq (h : t.sess = s.sess) : SessionStep s t := .inl h.symm

theorem SessionStep.of_mem (a b : Session) (hs : s.sess = a) (ht : t.sess = b) (h : (a, b) ∈ sessionTransitions) :
    SessionStep s t := .inr (by rw [hs, ht]; exact h)

/-- What the session does inside an expansion, which holds neither OPEN nor CLOSE: nothing, or what XFER does. -/
def XferStep (s t : State) : Prop := t.sess = s.sess ∨ (s.sess = .idle ∧ t.sess = .awaitingResponse)

theorem XferStep.trans {s u t : State} (h : XferStep s u) (h' : XferStep u t) : XferStep s t := by
  rcases h with h | ⟨hs, hu⟩
  · rw [XferStep, ← h]
    exact h'
  · rcases h' with h' | ⟨hu', -⟩
    · exact .inr ⟨hs, h'.trans hu⟩
    · cases hu.symm.trans hu'

theorem XferStep.sessionStep (h : XferStep s t) : SessionStep s t := by
  rcases h with h | ⟨hs, ht⟩
  · exact .of_eq h
  · exact .of_mem .idle .awaitingResponse hs ht (by decide)

theorem State.validate_sess_idle (hb : s.busy = false) : s.validate.sess = s.sess := by
  rw [State.validate_frame (s.busy_eq_false.mp hb)]

theorem State.storeReg_sess (s : State) (n : RegNum) (v : Word32) : (s.storeReg n v).sess = s.sess := by
  rw [s.storeReg_writes]

/-- The commands move the session as R131 says: OPEN, CLOSE and XFER alone. -/
theorem sessionStep_performed {i : Instr} (hs : sessionAgrees s.sess s.phase = true) (hb : s.busy = false)
    (h : Performed s i t) : SessionStep s t := by
  cases h with
  | parse => exact .of_eq (State.validate_sess_idle hb)
  | openSession hclosed => exact .of_mem .disconnected .connecting hclosed rfl (by decide)
  | closeSession =>
    have hphase : s.phase = .idle := s.busy_eq_false.mp hb
    rw [hphase, sessionAgrees_iff] at hs
    rcases List.mem_cons.mp hs with hs | hs
    · exact .of_eq hs.symm
    · exact .of_mem .idle .disconnected (List.mem_singleton.mp hs) rfl (by decide)
  | xfer hopen => exact .of_mem .idle .awaitingResponse hopen rfl (by decide)
  | _ => exact .of_eq rfl

theorem xferStep_line {l : Line} (hl : l.inExpansion = true) (h : LineEffect s l t) : XferStep s t := by
  cases h with
  | own _ _ ht => exact .inl (congrArg State.sess ht :)
  | refuse => exact .inl rfl
  | write n v => exact .inl (s.storeReg_sess n v)
  | writeCmd => exact absurd hl (by simp [Line.inExpansion])
  | command _ _ hb h =>
    cases h with
    | parse => exact .inl (State.validate_sess_idle hb)
    | xfer hopen => exact .inr ⟨hopen, rfl⟩
    | openSession | closeSession | clrerr => cases hl
    | _ => exact .inl rfl

theorem sessionStep_runLine {l : Line} (hs : sessionAgrees s.sess s.phase = true) (h : runLine l s = .next t) :
    SessionStep s t := by
  rcases runLine_cases h with heffect | ⟨i, ls, -, hi, hexec⟩
  · cases heffect with
    | own _ _ ht => exact .of_eq (congrArg State.sess ht :)
    | refuse => exact .of_eq rfl
    | write n v => exact .of_eq (s.storeReg_sess n v)
    | command _ _ hb h => exact sessionStep_performed hs hb h
    | writeCmd _ _ _ _ hb h => exact sessionStep_performed hs hb h
  · exact XferStep.sessionStep (exec_expansion_induction hi (fun _ _ ht => .inl (congrArg State.sess ht :))
      (fun _ _ _ => XferStep.trans) (fun l hl _ _ => xferStep_line (inExpansion_of_mem hi l hl)) hexec)

/-- The sequencer moves the session as R131 says. -/
theorem sessionStep_sequencer (hs : sessionAgrees s.sess s.phase = true) (h : SequencerEffect s t) :
    SessionStep s t := by
  rw [sessionAgrees_iff] at hs
  have running (hp : s.phase = .tx ∨ s.phase = .rx ∨ s.phase = .check) : s.sess = .awaitingResponse := by
    rcases hp with hp | hp | hp <;> simpa [hp, Phase.sessions] using hs
  have connecting (hp : s.phase = .opening) : s.sess = .connecting := by simpa [hp, Phase.sessions] using hs
  cases h with
  | stay | send | endWrite | endRead => exact .of_eq rfl
  | openSucceeds hp => exact .of_mem .connecting .idle (connecting hp) rfl (by decide)
  | openFails hp => exact .of_mem .connecting .disconnected (connecting hp) rfl (by decide)
  | fatalTx hp => exact .of_mem .awaitingResponse .disconnected (running (.inl hp)) rfl (by decide)
  | readTimeout hp => exact .of_mem .awaitingResponse .idle (running (.inr (.inl hp))) rfl (by decide)
  | fatalRx hp => exact .of_mem .awaitingResponse .disconnected (running (.inr (.inl hp))) rfl (by decide)
  | check hp => exact .of_mem .awaitingResponse .idle (running (.inr (.inr hp))) rfl (by decide)

theorem wireEffect_sess (h : WireEffect s t) : t.sess = s.sess := by
  cases h with
  | ignored => rfl
  | received bytes => rw [s.receiveBytes_writes bytes]
  | badStop b => rw [s.receiveBytes_writes [b]]
  | sent => rw [s.sendBytes_endWrite_writes]

theorem sessionStep_event {e : Event} (hs : sessionAgrees s.sess s.phase = true) (h : EventEffect s e t) :
    SessionStep s t := by
  cases h with
  | line l rest _ _ h => exact sessionStep_runLine (s := { s with prog := rest }) hs h
  | own _ _ ht => exact .of_eq (congrArg State.sess ht :)
  | sequencer _ u _ _ hu h =>
    have hsess : u.sess = s.sess := (congrArg State.sess hu :)
    have hphase : u.phase = s.phase := (congrArg State.phase hu :)
    have hstep : SessionStep u t := sessionStep_sequencer (by rw [hsess, hphase]; exact hs) h
    rwa [SessionStep, hsess] at hstep
  | wire _ _ h => exact .of_eq (wireEffect_sess h)
  | reset =>
    have hreset : ∀ a : Session, a = .disconnected ∨ (a, Session.disconnected) ∈ sessionTransitions := by
      intro a
      cases a <;> decide
    exact hreset s.sess

/-- Settles O53: by what the next answer does. OPEN, CLOSE and XFER, the ends of a connection and of a transaction, and
reset move the session; the rest leave it. -/
theorem sessionMovesOnlyAlongItsTransitions : Obligations.SessionMovesOnlyAlongItsTransitions := by
  intro s t hinv hstep
  obtain ⟨u, hu, -, hrun⟩ := step_eq_runEvent s
  have hsess : u.sess = s.sess := (congrArg State.sess hu :)
  have hphase : u.phase = s.phase := (congrArg State.phase hu :)
  have hmoved : SessionStep u t :=
    sessionStep_event (by rw [hsess, hphase]; exact hinv.session) (runEvent_cases (hrun.symm.trans hstep))
  rwa [SessionStep, hsess] at hmoved

end Sys2Proof.Machine
end

section
/-! PROOFS. What stays as it is: the sticky flags until CLRERR (10_state R18, R19), the request and the registers while busy
(20_memory R56, R62), the buffers under what does not store (20_memory section 1), the history but for its growth (10_state
R43). -/

namespace Sys2Proof.Machine

variable {s t : State}

/-! ### The sticky flags -/

/-- `CMDERR` and `FERR`, where they are set, stay set. -/
def FlagsKept (s t : State) : Prop := (s.cmdErr = true → t.cmdErr = true) ∧ (s.fErr = true → t.fErr = true)

theorem FlagsKept.trans {s u t : State} (h : FlagsKept s u) (h' : FlagsKept u t) : FlagsKept s t :=
  ⟨h'.1 ∘ h.1, h'.2 ∘ h.2⟩

theorem FlagsKept.of_eq (hcmd : t.cmdErr = s.cmdErr) (hframe : t.fErr = s.fErr) : FlagsKept s t :=
  ⟨hcmd.trans, hframe.trans⟩

theorem FlagsKept.of_own (h : t = s.withOwn t) : FlagsKept s t :=
  .of_eq (congrArg State.cmdErr h :) (congrArg State.fErr h :)

theorem flagsKept_performed {i : Instr} (hi : i ≠ .clrerr) (h : Performed s i t) : FlagsKept s t := by
  cases h with
  | parse =>
    rw [s.validate_writes]
    exact ⟨id, id⟩
  | clrerr => exact absurd rfl hi
  | _ => exact ⟨id, id⟩

/-- A line that is not CLRERR, by its mnemonic or as a command word. -/
def Line.notClrerr (l : Line) : Prop :=
  l ≠ .op .clrerr ∧ ∀ v : Word32, l = .wr 0#4 v → loByte (v.setWidth 16) ≠ 0x0A#8

theorem Line.notClrerr_of_inExpansion {l : Line} (h : l.inExpansion = true) : l.notClrerr := by
  constructor
  · rintro rfl
    cases h
  · rintro v rfl
    cases h

/-- R83: only operation code 0x0A is CLRERR. -/
theorem loByte_of_decode_clrerr {w : Word16} (h : decode (.cmd w) = .ok .clrerr) : loByte w = 0x0A#8 := by
  obtain ⟨w', hencode, hop, -⟩ := encode_of_decodeCmd h
  cases hencode
  rw [← hop]
  exact loByte_pair _ _

theorem flagsKept_line {l : Line} (hl : l.notClrerr) (h : LineEffect s l t) : FlagsKept s t := by
  cases h with
  | own _ _ ht => exact .of_own ht
  | refuse => exact ⟨fun _ => rfl, id⟩
  | write n v =>
    refine ⟨s.storeReg_cmdErr n v, fun hf => ?_⟩
    rw [s.storeReg_writes]
    exact hf
  | command i _ _ h => exact flagsKept_performed (fun hi => hl.1 (congrArg Line.op hi)) h
  | writeCmd v i _ hd _ h =>
    refine flagsKept_performed (fun hi => hl.2 v rfl (loByte_of_decode_clrerr ?_)) h
    rw [hd, hi]

theorem flagsKept_wire (h : WireEffect s t) : FlagsKept s t := by
  cases h with
  | ignored => exact ⟨id, id⟩
  | received bytes =>
    rw [s.receiveBytes_writes bytes]
    exact ⟨id, id⟩
  | badStop b =>
    rw [s.receiveBytes_writes [b]]
    exact ⟨id, fun _ => rfl⟩
  | sent =>
    rw [s.sendBytes_endWrite_writes]
    exact ⟨id, id⟩

theorem flagsKept_expansion {i : Instr} {ls : List Line} (hi : expansion i = some ls) (h : exec i s = .next t) :
    FlagsKept s t :=
  exec_expansion_induction hi (fun _ _ => .of_own) (fun _ _ _ => FlagsKept.trans)
    (fun l hl _ _ => flagsKept_line (l.notClrerr_of_inExpansion (inExpansion_of_mem hi l hl))) h

theorem flagsKept_exec {i : Instr} (hi : i ≠ .clrerr) (h : exec i s = .next t) : FlagsKept s t := by
  rcases exec_cases h with hline | ⟨ls, hls⟩ | ⟨-, hwire⟩
  · exact flagsKept_line ⟨fun heq => hi (Line.op.inj heq), nofun⟩ hline
  · exact flagsKept_expansion hls h
  · exact flagsKept_wire hwire

theorem flagsKept_sequencer (h : SequencerEffect s t) : FlagsKept s t := by
  cases h with
  | check =>
    rw [s.checkFrame_writes]
    exact ⟨id, id⟩
  | _ => exact ⟨id, id⟩

theorem flagsKept_event {e : Event} (he : e ≠ .reset) (hl : e = .host → ∀ l ∈ s.prog.head?, l.notClrerr)
    (h : EventEffect s e t) : FlagsKept s t := by
  cases h with
  | line l rest _ hprog h =>
    have hnot : l.notClrerr := hl rfl l (by rw [hprog]; rfl)
    rcases runLine_cases h with hline | ⟨i, ls, -, hls, hexec⟩
    · exact flagsKept_line (s := { s with prog := rest }) hnot hline
    · exact flagsKept_expansion (s := { s with prog := rest }) hls hexec
  | own _ _ ht => exact .of_own ht
  | sequencer _ u _ _ hu h =>
    exact FlagsKept.trans (.of_eq (congrArg State.cmdErr hu :) (congrArg State.fErr hu :)) (flagsKept_sequencer h)
  | wire _ _ h => exact flagsKept_wire h
  | reset => exact absurd rfl he

/-- Settles O54: of what an instruction, a line or an answer can do, CLRERR and reset alone clear a flag. -/
theorem stickyFlagsStayUntilClrerrOrReset : Obligations.StickyFlagsStayUntilClrerrOrReset := by
  intro s t
  refine ⟨fun i hi h => flagsKept_exec hi h, fun e he hhost h => ?_⟩
  refine flagsKept_event he (fun heq l hl => ?_) (runEvent_cases h)
  obtain ⟨hmnemonic, hword⟩ := hhost heq
  rw [Option.mem_def] at hl
  rw [hl] at hmnemonic hword
  exact ⟨fun hl => hmnemonic (congrArg some hl), fun v hl => hword v (congrArg some hl)⟩

/-! ### The request and the registers while busy -/

/-- The fields that are frozen while an operation runs (20_memory R56, R62); the CRC is the validate step's to write. -/
def Frozen (s t : State) : Prop :=
  t.txBuf = s.txBuf ∧ t.txLen = s.txLen ∧ t.expLen = s.expLen ∧ t.slave = s.slave ∧ t.func = s.func ∧
  t.start = s.start ∧ t.count = s.count ∧ t.baud = s.baud ∧ (s.phase ≠ .check → t.crc = s.crc)

theorem Frozen.of_own (h : t = s.withOwn t) : Frozen s t := by
  rw [h]
  exact ⟨rfl, rfl, rfl, rfl, rfl, rfl, rfl, rfl, fun _ => rfl⟩

/-- What a line of the host can do while busy: own fields, a refusal, a write of `TIMEOUT` (20_memory R56). -/
theorem runLine_busy {l : Line} (hb : s.busy = true) (h : runLine l s = .next t) :
    t = s.withOwn t ∨ t = s.refuse ∨ ∃ v, t = { s with timeout := v } := by
  rcases runLine_cases h with hline | ⟨i, ls, -, hls, hexec⟩
  · cases hline with
    | own _ _ ht => exact .inl ht
    | refuse => exact .inr (.inl rfl)
    | write n v _ hfree =>
      rcases hfree with hidle | rfl
      · cases hb.symm.trans hidle
      · exact .inr (.inr ⟨v, rfl⟩)
    | command _ _ hidle => cases hb.symm.trans hidle
    | writeCmd _ _ _ _ hidle => cases hb.symm.trans hidle
  · obtain ⟨u, hu, hissue⟩ := exec_expansion hls s
    have hub : u.busy = true := (congrArg State.busy hu :).trans hb
    cases hexec.symm.trans (hissue.trans (issue_busy ls hub))
    refine .inl ?_
    rw [hu]
    rfl

theorem frozen_sequencer (h : SequencerEffect s t) : Frozen s t := by
  cases h with
  | check hp =>
    rw [s.checkFrame_writes]
    exact ⟨rfl, rfl, rfl, rfl, rfl, rfl, rfl, rfl, fun hne => absurd hp hne⟩
  | _ => exact ⟨rfl, rfl, rfl, rfl, rfl, rfl, rfl, rfl, fun _ => rfl⟩

theorem frozen_wire (h : WireEffect s t) : Frozen s t := by
  cases h with
  | ignored => exact .of_own rfl
  | received bytes =>
    rw [s.receiveBytes_writes bytes]
    exact ⟨rfl, rfl, rfl, rfl, rfl, rfl, rfl, rfl, fun _ => rfl⟩
  | badStop b =>
    rw [s.receiveBytes_writes [b]]
    exact ⟨rfl, rfl, rfl, rfl, rfl, rfl, rfl, rfl, fun _ => rfl⟩
  | sent =>
    rw [s.sendBytes_endWrite_writes]
    exact ⟨rfl, rfl, rfl, rfl, rfl, rfl, rfl, rfl, fun _ => rfl⟩

/-- What an answer other than reset leaves while busy. -/
theorem frozen_event {e : Event} (hb : s.busy = true) (he : e ≠ .reset) (h : EventEffect s e t) : Frozen s t := by
  cases h with
  | line l rest _ _ h =>
    rcases runLine_busy (s := { s with prog := rest }) hb h with ht | rfl | ⟨v, rfl⟩
    · exact .of_own ht
    · exact ⟨rfl, rfl, rfl, rfl, rfl, rfl, rfl, rfl, fun _ => rfl⟩
    · exact ⟨rfl, rfl, rfl, rfl, rfl, rfl, rfl, rfl, fun _ => rfl⟩
  | own _ _ ht => exact .of_own ht
  | sequencer _ u _ _ hu h =>
    rw [hu] at h
    exact (frozen_sequencer h :)
  | wire _ _ h => exact frozen_wire h
  | reset => exact absurd rfl he

/-- Settles O55: while busy the host's lines write `TIMEOUT` and `CMDERR` at most, and neither the sequencer nor the line
writes one of these fields, but `CRC` in the validate step. -/
theorem requestAndRegistersAreFrozenWhileBusy : Obligations.RequestAndRegistersAreFrozenWhileBusy :=
  fun _ _ _ hb he h => frozen_event hb he (runEvent_cases h)

/-! ### The history -/

/-- The host's actions add nothing to the history. -/
theorem hist_line {l : Line} (h : LineEffect s l t) : t.hist = s.hist := by
  have performed {i : Instr} (h : Performed s i t) : t.hist = s.hist := by
    cases h with
    | parse => rw [s.validate_writes]
    | _ => rfl
  cases h with
  | own _ _ ht => exact (congrArg State.hist ht :)
  | refuse => rfl
  | write n v => rw [s.storeReg_writes]
  | command _ _ _ h => exact performed h
  | writeCmd _ _ _ _ _ h => exact performed h

theorem hist_runLine {l : Line} (h : runLine l s = .next t) : t.hist = s.hist := by
  rcases runLine_cases h with hline | ⟨i, ls, -, hls, hexec⟩
  · exact hist_line hline
  · exact exec_expansion_induction (R := fun s t => t.hist = s.hist) hls (fun _ _ ht => (congrArg State.hist ht :))
      (fun _ _ _ h h' => h'.trans h) (fun _ _ _ _ => hist_line) hexec

/-- The history grows, a byte event in its phase alone (42_uart_transceiver R147). -/
def HistGrows (s t : State) : Prop :=
  ∃ grown, t.hist = s.hist ++ grown ∧ (∀ b, .txByte b ∈ grown → s.phase = .tx) ∧
    ∀ b, .rxByte b ∈ grown → s.phase = .rx ∧ s.rxLen.toNat < s.expLen.toNat

theorem HistGrows.of_eq (h : t.hist = s.hist) : HistGrows s t := ⟨[], by simpa using h, by simp, by simp⟩

theorem histGrows_sequencer (h : SequencerEffect s t) : HistGrows s t := by
  cases h with
  | stay | openSucceeds | openFails => exact .of_eq rfl
  | send hp => exact ⟨[.txByte _], rfl, fun _ _ => hp, by simp⟩
  | endWrite => exact ⟨[.log .tx _], rfl, by simp, by simp⟩
  | fatalTx => exact ⟨[.log .tx _, .fatal], List.append_assoc _ _ _, by simp, by simp⟩
  | endRead => exact ⟨[.log .rx _], rfl, by simp, by simp⟩
  | readTimeout => exact ⟨[.log .rx _, .timeout], List.append_assoc _ _ _, by simp, by simp⟩
  | fatalRx => exact ⟨[.log .rx _, .fatal], List.append_assoc _ _ _, by simp, by simp⟩
  | check =>
    refine .of_eq ?_
    rw [s.checkFrame_writes]

/-- The receiver records what it takes. -/
theorem State.receiveBytes_hist (bytes : List Byte) (s : State) :
    ∃ taken : List Byte, (s.receiveBytes bytes).hist = s.hist ++ taken.map .rxByte := by
  induction bytes generalizing s with
  | nil => exact ⟨[], (List.append_nil _).symm⟩
  | cons b bytes ih =>
    obtain ⟨taken, htaken⟩ := ih (s.receiveByte b)
    cases hr : s.receiving with
    | false => exact ⟨taken, by rw [State.receiveBytes, htaken, State.receiveByte_off b hr]⟩
    | true =>
      refine ⟨b :: taken, ?_⟩
      rw [State.receiveBytes, htaken]
      simp [State.receiveByte, hr]

theorem histGrows_received (bytes : List Byte) : HistGrows s (s.receiveBytes bytes) := by
  cases hr : s.receiving with
  | false => exact .of_eq (by rw [State.receiveBytes_off bytes hr])
  | true =>
    obtain ⟨taken, htaken⟩ := State.receiveBytes_hist bytes s
    exact ⟨_, htaken, by simp, fun _ _ => s.receiving_eq_true.mp hr⟩

theorem histGrows_wire (h : WireEffect s t) : HistGrows s t := by
  cases h with
  | ignored => exact .of_eq rfl
  | received bytes => exact histGrows_received bytes
  | badStop b => exact histGrows_received [b]
  | sent frame h =>
    obtain ⟨hp, hidx, -⟩ := (s.aboutToSend_eq_true frame).mp h
    refine ⟨(s.txBytes 8).map .txByte ++ [.log .tx ((s.sendBytes 8).txBytes 8)], ?_, fun _ _ => hp, by simp⟩
    rw [← List.append_assoc]
    conv_lhs => rw [State.sendBytes_begin hidx (le_refl 8)]
    rw [State.sendBytes_begin hidx (le_refl 8)]
    rfl

theorem histGrows_event {e : Event} (he : e ≠ .reset) (h : EventEffect s e t) : HistGrows s t := by
  cases h with
  | line l rest _ _ h => exact .of_eq (hist_runLine h :)
  | own _ _ ht => exact .of_eq (congrArg State.hist ht :)
  | sequencer _ u _ _ hu h =>
    rw [hu] at h
    exact (histGrows_sequencer h :)
  | wire _ _ h => exact histGrows_wire h
  | reset => exact absurd rfl he

/-- Settles O57: the host adds nothing, the sequencer a `TxByte` in `P_TX` alone, the line an `RxByte` only while the
receiver takes bytes. -/
theorem bytesMoveOnlyInTheirPhase : Obligations.BytesMoveOnlyInTheirPhase :=
  fun _ _ _ he h => histGrows_event he (runEvent_cases h)

/-! ### The buffers -/

/-- The instructions that store in `RXBUF` (20_memory section 1). -/
def storesRx : Instr → Bool
  | .rxpush _ | .parsebytes _ | .rtuRequest _ _ _ _ _ _ _ | .rtuResponse _ _ _ _ | .uartChar _ => true
  | _ => false

/-- The instructions that store in `TXBUF` (20_memory section 1). -/
def storesTx : Instr → Bool
  | .build | .req _ _ _ _ | .transact _ _ _ _ | .poll _ _ _ _ _ => true
  | _ => false

/-- Whether a line may run an instruction that `stores` tells; a write of `CMD` may run any command. -/
def Line.mayStore (stores : Instr → Bool) : Line → Bool
  | .op i => stores i
  | .wr n _ => decide (n = 0#4)
  | .rd _ | .rdbTx _ | .rdbRx _ | .engine _ => false

theorem mayStore_of_mem_expansion {i : Instr} {ls : List Line} (hi : expansion i = some ls) :
    (storesRx i = false → ∀ l ∈ ls, l.mayStore storesRx = false) ∧
    (storesTx i = false → ∀ l ∈ ls, l.mayStore storesTx = false) := by
  cases i with
  | crc16 | req | parsebytes | transact | poll =>
    cases hi
    simp [crc16Lines, reqLines, parseLines, transactLines, pollLines, attemptLines, byteLines, Line.mayStore, storesRx,
      storesTx, or_imp, forall_and]
  | _ => cases hi

theorem performed_rxBuf {i : Instr} (hi : storesRx i = false) (h : Performed s i t) : t.rxBuf = s.rxBuf := by
  cases h with
  | rxpush => cases hi
  | parse => rw [s.validate_writes]
  | _ => rfl

theorem performed_txBuf {i : Instr} (hi : storesTx i = false) (h : Performed s i t) : t.txBuf = s.txBuf := by
  cases h with
  | build => cases hi
  | parse => rw [s.validate_writes]
  | _ => rfl

/-- No command stores in `TXBUF` from index 8 up. -/
theorem performed_txBuf_high {i : Instr} {x : Nat} (hx : 8 ≤ x) (h : Performed s i t) :
    t.txBuf.read x = s.txBuf.read x := by
  cases h with
  | build => exact s.buildRequest_read hx
  | parse => rw [s.validate_writes]
  | _ => rfl

theorem line_rxBuf {l : Line} (hl : l.mayStore storesRx = false) (h : LineEffect s l t) : t.rxBuf = s.rxBuf := by
  cases h with
  | own _ _ ht => exact (congrArg State.rxBuf ht :)
  | refuse => rfl
  | write n v => rw [s.storeReg_writes]
  | command _ _ _ h => exact performed_rxBuf hl h
  | writeCmd => cases hl

theorem line_txBuf {l : Line} (hl : l.mayStore storesTx = false) (h : LineEffect s l t) : t.txBuf = s.txBuf := by
  cases h with
  | own _ _ ht => exact (congrArg State.txBuf ht :)
  | refuse => rfl
  | write n v => rw [s.storeReg_writes]
  | command _ _ _ h => exact performed_txBuf hl h
  | writeCmd => cases hl

theorem line_txBuf_high {l : Line} {x : Nat} (hx : 8 ≤ x) (h : LineEffect s l t) :
    t.txBuf.read x = s.txBuf.read x := by
  cases h with
  | own _ _ ht => exact congrArg (Memory.read · x) (congrArg State.txBuf ht :)
  | refuse => rfl
  | write n v => rw [s.storeReg_writes]
  | command _ _ _ h => exact performed_txBuf_high hx h
  | writeCmd _ _ _ _ _ h => exact performed_txBuf_high hx h

theorem exec_rxBuf {i : Instr} (hi : storesRx i = false) (h : exec i s = .next t) : t.rxBuf = s.rxBuf := by
  rcases exec_cases h with hline | ⟨ls, hls⟩ | ⟨hwire, -⟩
  · exact line_rxBuf (l := .op i) hi hline
  · exact exec_expansion_induction (R := fun s t => t.rxBuf = s.rxBuf) hls (fun _ _ ht => (congrArg State.rxBuf ht :))
      (fun _ _ _ h h' => h'.trans h) (fun l hl _ _ => line_rxBuf ((mayStore_of_mem_expansion hls).1 hi l hl)) h
  · cases i with
    | rtuRequest | rtuResponse | uartChar => cases hi
    | _ => cases hwire

theorem wire_txBuf (h : WireEffect s t) : t.txBuf = s.txBuf := (frozen_wire h).1

theorem exec_txBuf {i : Instr} (hi : storesTx i = false) (h : exec i s = .next t) : t.txBuf = s.txBuf := by
  rcases exec_cases h with hline | ⟨ls, hls⟩ | ⟨-, hwire⟩
  · exact line_txBuf (l := .op i) hi hline
  · exact exec_expansion_induction (R := fun s t => t.txBuf = s.txBuf) hls (fun _ _ ht => (congrArg State.txBuf ht :))
      (fun _ _ _ h h' => h'.trans h) (fun l hl _ _ => line_txBuf ((mayStore_of_mem_expansion hls).2 hi l hl)) h
  · exact wire_txBuf hwire

theorem exec_txBuf_high {i : Instr} {x : Nat} (hx : 8 ≤ x) (h : exec i s = .next t) :
    t.txBuf.read x = s.txBuf.read x := by
  rcases exec_cases h with hline | ⟨ls, hls⟩ | ⟨-, hwire⟩
  · exact line_txBuf_high hx hline
  · exact exec_expansion_induction (R := fun s t => t.txBuf.read x = s.txBuf.read x) hls
      (fun _ _ ht => congrArg (Memory.read · x) (congrArg State.txBuf ht :)) (fun _ _ _ h h' => h'.trans h)
      (fun _ _ _ _ => line_txBuf_high hx) h
  · rw [wire_txBuf hwire]

/-- Settles O49: by which buffer an instruction stores in, its own command's or one of its expansion's lines. -/
theorem onlyStoringInstructionsChangeTheBuffers : Obligations.OnlyStoringInstructionsChangeTheBuffers := by
  intro s t i h
  have keepsRx (hi : storesRx i = false) (x : Nat) : t.rxBuf.read x = s.rxBuf.read x := by rw [exec_rxBuf hi h]
  have keepsTx (hi : storesTx i = false) (x : Nat) : t.txBuf.read x = s.txBuf.read x := by rw [exec_txBuf hi h]
  refine ⟨fun hi => ?_, fun hi => ?_, fun hi => ?_⟩
  · have hnone : storesTx i = false ∧ storesRx i = false := by
      rcases hi with hi | ⟨b, rfl⟩ | ⟨bytes, rfl⟩
      · fin_cases hi <;> exact ⟨rfl, rfl⟩
      · exact ⟨rfl, rfl⟩
      · exact ⟨rfl, rfl⟩
    exact ⟨keepsTx hnone.1, keepsRx hnone.2⟩
  · have hrx : storesRx i = false := by
      rcases hi with rfl | ⟨a, f, b, c, rfl⟩ | ⟨a, f, b, c, rfl⟩ | ⟨a, f, b, c, r, rfl⟩ <;> rfl
    exact ⟨keepsRx hrx, fun x hx => exec_txBuf_high hx h⟩
  · have htx : storesTx i = false := by
      rcases hi with ⟨b, rfl⟩ | ⟨bytes, rfl⟩ <;> rfl
    exact keepsTx htx

end Sys2Proof.Machine
end

section
/-! PROOFS. The transceiver (42_uart_transceiver): the acceptance of OPEN, CLOSE, XFER and CLRERR, and the small steps of
the sequencer, as equations between whole states. -/

namespace Sys2Proof.Machine

variable {s : State}

/-! ### Commands -/

theorem exec_openSession_idle (h : s.busy = false) (hclosed : s.sess = .disconnected) :
    exec .openSession s = .next (State.freshSession { s with sess := .connecting, result := .none, phase := .opening }) :=
  (State.whenQuiescent_idle _ h).trans (congrArg _ (if_pos hclosed))

theorem exec_closeSession_idle (h : s.busy = false) :
    exec .closeSession s = .next (State.freshSession { s with sess := .disconnected }) :=
  State.whenQuiescent_idle _ h

theorem exec_clrerr_idle (h : s.busy = false) : exec .clrerr s = .next { s with cmdErr := false, fErr := false } :=
  State.whenQuiescent_idle _ h

theorem exec_xfer_idle (h : s.busy = false) (hopen : s.sess = .idle) (hbuilt : s.txLen = 8#4) :
    exec .xfer s = .next s.acceptXfer :=
  (State.whenQuiescent_idle _ h).trans (congrArg _ (if_pos ⟨hopen, hbuilt⟩))

theorem exec_xfer_refused (h : s.busy = true ∨ s.sess ≠ .idle ∨ s.txLen ≠ 8#4) : exec .xfer s = .next s.refuse :=
  State.whenQuiescent_refused (h.imp_right fun hstate => if_neg (not_and_or.mpr hstate))

/-- Settles O15: both commands are their writes while quiescent, and refused while busy as every command is. -/
theorem closeAndClrerrWriteTheirFieldsAlone : Obligations.CloseAndClrerrWriteTheirFieldsAlone :=
  fun _ => ⟨fun arg => ⟨decode_cmd_closeSession arg, decode_cmd_clrerr arg⟩, exec_closeSession_idle,
    exec_command_busy rfl, exec_clrerr_idle, exec_command_busy rfl⟩

/-- Settles O16: the acceptance is one update, and everything else is a refusal. -/
theorem xferStartsSending : Obligations.XferStartsSending :=
  fun _ => ⟨decode_cmd_xfer, exec_xfer_idle, exec_xfer_refused⟩

/-! ### The small steps -/

/-- At the sequencer's turn time passes first. -/
theorem runEvent_tick (s : State) (ms : Nat) :
    runEvent (.tick ms) s = .next ((s.advanceTimer ms).sequencerStep true) := rfl

theorem runEvent_linkDown (s : State) : runEvent .linkDown s = .next (s.sequencerStep false) := rfl

/-- The read timer runs in `P_RX` alone (10_state R40). -/
theorem State.advanceTimer_stopped (ms : Nat) (h : s.phase ≠ .rx) : s.advanceTimer ms = s := if_neg h

theorem State.advanceTimer_running (ms : Nat) (h : s.phase = .rx) :
    s.advanceTimer ms = { s with timer := some (s.timer.getD 0 + ms) } := if_pos h

theorem State.sequencerStep_idle (linkOk : Bool) (h : s.phase = .idle) : s.sequencerStep linkOk = s := by
  simp only [State.sequencerStep, h]

theorem State.sequencerStep_opening (linkOk : Bool) (h : s.phase = .opening) :
    s.sequencerStep linkOk = if s.baud ≠ 0#32 ∧ linkOk = true then s.openSucceeds else s.openFails := by
  simp only [State.sequencerStep, h]

theorem State.sequencerStep_tx_dead (h : s.phase = .tx) : s.sequencerStep false = s.fatalTx := by
  simp only [State.sequencerStep, h, if_true]

theorem State.sequencerStep_tx_send (h : s.phase = .tx) (hidx : s.txIdx.toNat < 8) :
    s.sequencerStep true = s.sendByte := by
  simp only [State.sequencerStep, h, hidx, if_true, Bool.true_eq_false, if_false]

theorem State.sequencerStep_tx_end (h : s.phase = .tx) (hidx : s.txIdx.toNat = 8) :
    s.sequencerStep true = s.endWrite := by
  simp only [State.sequencerStep, h, hidx, if_true, Bool.true_eq_false, if_false, lt_irrefl]

theorem State.sequencerStep_rx_dead (h : s.phase = .rx) : s.sequencerStep false = s.fatalRx := by
  simp only [State.sequencerStep, h, if_true]

theorem State.sequencerStep_rx_full (h : s.phase = .rx) (hlen : s.rxLen = s.expLen) :
    s.sequencerStep true = s.endRead := by
  simp only [State.sequencerStep, h, hlen, if_true, Bool.true_eq_false, if_false]

theorem State.sequencerStep_rx_below (h : s.phase = .rx) (hlen : s.rxLen.toNat < s.expLen.toNat) :
    s.sequencerStep true = if s.timeout.toNat ≤ s.timer.getD 0 then s.readTimeout else s := by
  simp only [State.sequencerStep, h, Bool.true_eq_false, if_false, Nat.ne_of_lt hlen, hlen, true_and, State.timerExpired,
    decide_eq_true_eq]

theorem State.sequencerStep_check (linkOk : Bool) (h : s.phase = .check) : s.sequencerStep linkOk = s.checkFrame := by
  simp only [State.sequencerStep, h]

/-- The two events of a fatal error while sending, and what it writes. -/
theorem State.fatalTx_eq (s : State) : s.fatalTx = { s with
    hist := s.hist ++ [.log .tx (s.txBytes s.txIdx.toNat), .fatal], result := .error .fatal, payLen := 0#8
    slvOk := false, funOk := false, cntOk := false, sess := .disconnected, phase := .idle, timer := none } := by
  simp [State.fatalTx, State.raise, State.clearMatch, State.loseSession]

theorem State.fatalRx_eq (s : State) : s.fatalRx = { s with
    hist := s.hist ++ [.log .rx (s.rxBytes s.rxLen.toNat), .fatal], result := .error .fatal, payLen := 0#8
    slvOk := false, funOk := false, cntOk := false, sess := .disconnected, phase := .idle, timer := none } := by
  simp [State.fatalRx, State.logRx, State.raise, State.clearMatch, State.loseSession]

theorem State.readTimeout_eq (s : State) : s.readTimeout = { s with
    hist := s.hist ++ [.log .rx (s.rxBytes s.rxLen.toNat), .timeout], tmo := true, result := .error .timeout
    payLen := 0#8, slvOk := false, funOk := false, cntOk := false, sess := .idle, phase := .idle, timer := none } := by
  simp [State.readTimeout, State.logRx, State.raise, State.clearMatch]

/-- Settles O14: OPEN is accepted or refused, and the step of R134 or R135 ends it by `BAUD` and the link. -/
theorem openConnectsInOneStep : Obligations.OpenConnectsInOneStep := by
  intro s ms
  have refused (h : s.busy = true ∨ s.sess ≠ .disconnected) : exec .openSession s = .next s.refuse :=
    State.whenQuiescent_refused (h.imp_right fun hopen => if_neg hopen)
  have stopped (hp : s.phase = .opening) : s.advanceTimer ms = s := State.advanceTimer_stopped ms (by simp [hp])
  refine ⟨decode_cmd_openSession, exec_openSession_idle, refused, fun hp hbaud => ?_, fun hp hbaud => ?_, fun hp => ?_⟩
  · rw [step_eventNext, runEvent_tick, stopped hp, State.sequencerStep_opening _ hp, if_pos ⟨hbaud, rfl⟩]
    rfl
  · rw [step_eventNext, runEvent_tick, stopped hp, State.sequencerStep_opening _ hp, if_neg (fun h => h.1 hbaud)]
    rfl
  · rw [step_eventNext, runEvent_linkDown, State.sequencerStep_opening _ hp, if_neg (fun h => nomatch h.2)]
    rfl

/-- Settles O17: a dead link before everything, then by `TXIDX`. -/
theorem sendingSteps : Obligations.SendingSteps := by
  intro s ms hp
  have stopped : s.advanceTimer ms = s := State.advanceTimer_stopped ms (by simp [hp])
  refine ⟨fun hidx => ?_, fun hidx => ?_, ?_⟩
  · rw [step_eventNext, runEvent_tick, stopped, State.sequencerStep_tx_send hp hidx]
    rfl
  · rw [step_eventNext, runEvent_tick, stopped, State.sequencerStep_tx_end hp hidx]
    rfl
  · rw [step_eventNext, runEvent_linkDown, State.sequencerStep_tx_dead hp, State.fatalTx_eq]

/-- A tick in `P_RX` below `EXPLEN` (R141). -/
theorem runEvent_tick_below (ms : Nat) (hp : s.phase = .rx) (hlen : s.rxLen.toNat < s.expLen.toNat) :
    runEvent (.tick ms) s = .next (if s.timeout.toNat ≤ s.timer.getD 0 + ms
      then State.readTimeout { s with timer := some (s.timer.getD 0 + ms) }
      else { s with timer := some (s.timer.getD 0 + ms) }) := by
  rw [runEvent_tick, State.advanceTimer_running ms hp]
  exact congrArg _ (State.sequencerStep_rx_below (s := { s with timer := some (s.timer.getD 0 + ms) }) hp hlen)

/-- Settles O18: a dead link before everything, then a complete read, then the timeout. -/
theorem receivePhaseEnds : Obligations.ReceivePhaseEnds := by
  intro s ms hp
  refine ⟨fun hlen => ?_, fun hlen htime => ?_, fun hlen htime => ?_, ?_⟩
  · rw [step_eventNext, runEvent_tick, State.advanceTimer_running ms hp]
    exact congrArg _ (State.sequencerStep_rx_full (s := { s with timer := some (s.timer.getD 0 + ms) }) hp hlen)
  · rw [step_eventNext, runEvent_tick_below ms hp hlen, if_pos htime, State.readTimeout_eq]
    rfl
  · rw [step_eventNext, runEvent_tick_below ms hp hlen, if_neg (Nat.not_le.mpr htime)]
  · rw [step_eventNext, runEvent_linkDown, State.sequencerStep_rx_dead hp, State.fatalRx_eq]

/-! ### The validate step -/

/-- `s` with its transaction over: quiescent and `Idle`. -/
def State.ended (s : State) : State := { s with phase := .idle, sess := .idle }

/-- The comparison with the last request commutes with the end of the transaction. -/
theorem State.matchRequest_ended (s : State) : s.ended.matchRequest = s.matchRequest.ended := by
  unfold State.matchRequest State.ended
  split <;> rfl

/-- The validate step is the validator of PARSE, the transaction ended first. -/
theorem State.checkFrame_eq_validate (s : State) : s.checkFrame = s.ended.validate := by
  change s.validate.ended = s.ended.validate
  rcases Nat.lt_or_ge s.rxLen.toNat 5 with hshort | hlong
  · rw [State.validate_short hshort, State.validate_short (s := s.ended) hshort]
    rfl
  · obtain ⟨n, hlen⟩ : ∃ n, s.rxLen.toNat = n + 5 := ⟨s.rxLen.toNat - 5, by omega⟩
    by_cases hcrc : pair (s.rxByte (n + 4)) (s.rxByte (n + 3)) = crc16 (s.rxBytes (n + 3))
    · by_cases hcount : (s.rxByte 2).toNat = n
      · rw [State.validate_ok hlen hcrc hcount, State.validate_ok (s := s.ended) hlen hcrc hcount]
        exact (State.matchRequest_ended _).symm
      · rw [State.validate_length hlen hcrc hcount, State.validate_length (s := s.ended) hlen hcrc hcount]
        rfl
    · rw [State.validate_crc hlen hcrc, State.validate_crc (s := s.ended) hlen hcrc]
      rfl

/-- Settles O19: in `P_CHECK` every turn of the sequencer is the validate step. -/
theorem validateStepGivesTheParseVerdict : Obligations.ValidateStepGivesTheParseVerdict := by
  intro s e hp he
  have hstep : step (s.eventNext e) = .next s.checkFrame := by
    rcases he with rfl | ⟨ms, rfl⟩
    · rw [step_eventNext, runEvent_linkDown, State.sequencerStep_check _ hp]
    · rw [step_eventNext, runEvent_tick, State.advanceTimer_stopped ms (by simp [hp]), State.sequencerStep_check _ hp]
  refine ⟨s.checkFrame, ?_, hstep, rfl, rfl⟩
  rw [s.checkFrame_eq_validate]
  exact exec_parse_idle rfl

end Sys2Proof.Machine
end

section
/-! PROOFS. The line: a request frame that is the block's own (30_encoding R67, R80), bytes that reach the receiver
(42_uart_transceiver R139), and what leaves no trace (20_memory R64). -/

namespace Sys2Proof.Machine

variable {s : State}

/-! ### The block's own request -/

/-- The write phase leaves the eight bytes of `TXBUF` and their log in the history (42_uart_transceiver R136, R137). -/
theorem State.sendBytes_endWrite_eq (hidx : s.txIdx = 0#4) :
    (s.sendBytes 8).endWrite = { s with
      hist := s.hist ++ (s.txBytes 8).map .txByte ++ [.log .tx (s.txBytes 8)]
      txIdx := 8#4, phase := .rx, timer := some 0 } := by
  rw [State.sendBytes_begin hidx (le_refl 8)]
  rfl

/-- Where the block is not about to send these bytes they reach the receiver. -/
theorem exec_frame_received {i : Instr} {kind : FrameKind} {bytes : List Byte} (hi : encode i = some (.frame kind bytes))
    (h : s.aboutToSend bytes = false) : exec i s = .next (s.receiveBytes bytes) := by
  rw [exec_of_encode_frame hi, if_neg]
  rw [h]
  exact fun hboth => nomatch hboth.2

/-- Settles O23: the write phase as one update, or bytes at a receiver that takes none. -/
theorem requestFramePassesOnTheLine : Obligations.RequestFramePassesOnTheLine := by
  intro s a h l hh ll c cc
  have hencode : encode (.rtuRequest a h l hh ll c cc) = some (.frame .request (requestBytes a h l hh ll c cc)) := rfl
  refine ⟨fun hp hidx hbytes => ?_, fun hoff hother => ?_⟩
  · rw [exec_of_encode_frame hencode, if_pos ⟨rfl, (s.aboutToSend_eq_true _).mpr ⟨hp, hidx, hbytes⟩⟩,
      State.sendBytes_endWrite_eq hidx, hbytes, List.append_assoc]
    rfl
  · have hnot : s.aboutToSend (requestBytes a h l hh ll c cc) = false := by
      rw [← Bool.not_eq_true, State.aboutToSend_eq_true, not_and_or, not_and_or]
      exact hother
    rw [exec_frame_received hencode hnot, State.receiveBytes_off _ hoff]

/-! ### Bytes that reach the receiver -/

theorem State.aboutToSend_of_not_tx (bytes : List Byte) (h : s.phase ≠ .tx) : s.aboutToSend bytes = false := by
  simp [State.aboutToSend, h]

/-- `RXLEN` counts received bytes without wrapping, as far as the buffer reaches. -/
theorem rxLen_add_toNat {l : BitVec 9} {k : Nat} (h : l.toNat + k ≤ 256) : (l + BitVec.ofNat 9 k).toNat = l.toNat + k := by
  rw [BitVec.toNat_add, BitVec.toNat_ofNat]
  omega

/-- Settles O24: whatever the frame decodes to, its bytes reach the receiver, which takes as many as it still expects. -/
theorem framesAreReceivedUpToTheExpectedLength : Obligations.FramesAreReceivedUpToTheExpectedLength := by
  intro s kind bytes k hp hlen hexp hk
  have hnot : s.aboutToSend bytes = false := State.aboutToSend_of_not_tx bytes (by simp [hp])
  have htake : bytes.take (s.expLen.toNat - s.rxLen.toNat) = bytes.take k :=
    List.take_eq_take_iff.mpr (by omega)
  have hkeep : (bytes.take k).length = k := by
    rw [List.length_take]
    omega
  have hreceive := State.receiveBytes_on bytes hp hlen hexp
  rw [htake, ← hk] at hreceive
  refine ⟨s.receiveBytes bytes, lineFrame_received (.inr (.inl hnot)), fun i hi => exec_frame_received hi hnot, ?_⟩
  rw [hreceive]
  refine ⟨rxLen_add_toNat (by omega), fun x => ?_, rfl⟩
  rw [Memory.read_writeList, hkeep]
  refine if_ctx_congr Iff.rfl (fun hx => ?_) fun _ => rfl
  rw [List.getElem?_take, if_pos (by omega)]

/-- A character that the receiver takes. -/
theorem State.receiveByte_on (b : Byte) (h : s.receiving = true) :
    s.receiveByte b = (s.appendRx b).emit (.rxByte b) := if_pos h

theorem State.receiveBadStop_on (b : Byte) (h : s.receiving = true) :
    s.receiveBadStop b = { s.receiveByte b with fErr := true } := if_pos h

/-- The ten levels of a character with a stop bit of 0. -/
theorem encodeChar_badStop (b : Byte) :
    (encodeChar b &&& 0x3FE#10).getLsbD 9 = false ∧ (encodeChar b &&& 0x3FE#10).getLsbD 0 = false ∧
      charData (encodeChar b &&& 0x3FE#10) = b := by
  revert b
  decide

theorem runEvent_char (s : State) (levels : BitVec 10) : runEvent (.char levels) s = lineChar levels s := rfl

/-- The character that carries a byte reaches the receiver, whatever the state. -/
theorem runEvent_charEvent (s : State) (b : Byte) : runEvent (charEvent b) s = .next (s.receiveByte b) := by
  obtain ⟨-, hstart, hstop⟩ := Laws.EncodeShape.uartChar b
  rw [charEvent, runEvent_char, lineChar_good s hstart hstop, charData_encodeChar]

/-- Settles O25: the byte is appended and recorded; a bad stop bit sets `FERR` beside it. -/
theorem characterIsReceived : Obligations.CharacterIsReceived := by
  intro s b hp hlt hroom
  have hr : s.receiving = true := s.receiving_eq_true.mpr ⟨hp, hlt⟩
  obtain ⟨hstart, hstop, hdata⟩ := encodeChar_badStop b
  refine ⟨s.receiveByte b, rfl, runEvent_charEvent s b, ?_, ?_⟩
  · rw [step_eventNext, runEvent_char, lineChar_badStop s hstart hstop, hdata, State.receiveBadStop_on b hr]
  · rw [State.receiveByte_on b hr]
    exact ⟨State.appendRx_rxLen_toNat b hroom, rfl, State.appendRx_read b hroom, rfl⟩

/-! ### What leaves no trace -/

theorem lineChar_off (levels : BitVec 10) (h : s.receiving = false) : lineChar levels s = .next s := by
  cases hstart : levels.getLsbD 9 with
  | true => exact lineChar_noStart s hstart
  | false =>
    cases hstop : levels.getLsbD 0 with
    | true => rw [lineChar_good s hstart hstop, State.receiveByte_off _ h]
    | false =>
      rw [lineChar_badStop s hstart hstop, State.receiveBadStop, h]
      rfl

/-- Settles O26: the receiver takes nothing, and in `P_IDLE` no step of the sequencer is enabled. -/
theorem lineIsIgnoredOutsideTheReceivePhase : Obligations.LineIsIgnoredOutsideTheReceivePhase := by
  intro s hoff
  refine ⟨fun b => congrArg _ (State.receiveByte_off b hoff), fun a data c cc => congrArg _ (State.receiveBytes_off _ hoff),
    fun levels => lineChar_off levels hoff, fun kind bytes hother => ?_, fun hp => ⟨fun ms => ?_, ?_⟩⟩
  · rw [step_eventNext, runEvent, lineFrame_received (hother.imp_right (Or.imp_left (State.aboutToSend_of_not_tx bytes))),
      State.receiveBytes_off bytes hoff]
  · rw [step_eventNext, runEvent_tick, State.advanceTimer_stopped ms (by simp [hp]), State.sequencerStep_idle _ hp]
  · rw [step_eventNext, runEvent_linkDown, State.sequencerStep_idle _ hp]

end Sys2Proof.Machine
end

section
/-! PROOFS. The CRC16 unit and the validator (40_crc16 R94 to R101, 41_frame_codec R112, R119): the table form, the residue
0, the linear differences, and what PARSEBYTES makes of a byte string. -/

namespace Sys2Proof.Machine

variable {s : State}

/-! ### Bytes from index 0 of the receive buffer -/

theorem rxLen_ofNat_toNat {n : Nat} (h : n ≤ 256) : (BitVec.ofNat 9 n).toNat = n := by
  rw [BitVec.toNat_ofNat]
  omega

/-- Bytes written from index 0 are the buffer's first bytes. -/
theorem State.rxBytes_of_writeList {t : State} {m : Memory} {bytes : List Byte} (h : t.rxBuf = m.writeList 0 bytes) :
    t.rxBytes bytes.length = bytes := by
  have hread := Memory.map_read_writeList m bytes Config.powerOnRx (le_refl _)
  rw [List.take_length, ← h] at hread
  exact hread

theorem Memory.read_writeList_above {m : Memory} {bytes : List Byte} {a : Nat} (h : bytes.length ≤ a) :
    (m.writeList 0 bytes).read a = m.read a := by
  rw [Memory.read_writeList, if_neg (by omega)]

/-! ### The CRC function (40_crc16) -/

theorem crc16_append (a b : List Byte) : crc16 (a ++ b) = crcFrom (crc16 a) b := crcFrom_append Config.crcInit a b

/-- R101 (a): the low byte goes through the table, the high byte comes down. -/
theorem crcStep_table (c : Word16) (b : Byte) :
    crcStep c b = (c >>> 8) ^^^ crcRounds 8 ((loByte (c ^^^ b.setWidth 16)).setWidth 16) := by
  have hhigh : (c ^^^ b.setWidth 16) >>> 8 = c >>> 8 := by
    have hbyte : b.setWidth 16 >>> 8 = 0#16 := by
      apply BitVec.eq_of_toNat_eq
      rw [BitVec.toNat_ushiftRight, BitVec.toNat_setWidth, BitVec.toNat_ofNat, Nat.shiftRight_eq_div_pow]
      omega
    rw [BitVec.ushiftRight_xor_distrib, hbyte, BitVec.xor_zero]
  generalize hx : c ^^^ b.setWidth 16 = x at hhigh ⊢
  have hsplit : x = (x ^^^ (loByte x).setWidth 16) ^^^ (loByte x).setWidth 16 := by
    rw [BitVec.xor_assoc, BitVec.xor_self, BitVec.xor_zero]
  calc crcStep c b = crcRounds 8 x := by rw [crcStep, hx]
    _ = crcRounds 8 (x ^^^ (loByte x).setWidth 16) ^^^ crcRounds 8 ((loByte x).setWidth 16) := by
      rw [← crcRounds_xor, ← hsplit]
    _ = (c >>> 8) ^^^ crcRounds 8 ((loByte x).setWidth 16) := by
      rw [← hhigh, ← crcStep_low]
      rfl

theorem loByte_ushiftRight_eight (c : Word16) : loByte (c >>> 8) = hiByte c := by
  apply BitVec.eq_of_getLsbD_eq
  intro i hi
  simp [loByte, hiByte, -BitVec.getLsbD_eq_getElem]

/-- R101 (b) in both directions: two more bytes bring the accumulator to 0 exactly when they are its own, low byte
first. -/
theorem crcFrom_pair_eq_zero_iff (c : Word16) (lo hi : Byte) : crcFrom c [lo, hi] = 0#16 ↔ pair hi lo = c := by
  have own (c : Word16) : crcFrom c [loByte c, hiByte c] = 0#16 := by
    change crcStep (crcStep c (loByte c)) (hiByte c) = 0#16
    rw [crcStep_low, ← loByte_ushiftRight_eight, crcStep_low, ← BitVec.shiftRight_add]
    exact BitVec.ushiftRight_eq_zero (le_refl 16)
  constructor
  · intro hzero
    refine crcFrom_inj_left [lo, hi] _ _ ?_
    have hpair := own (pair hi lo)
    rw [loByte_pair, hiByte_pair] at hpair
    rw [hzero, hpair]
  · rintro rfl
    simpa using own (pair hi lo)

theorem crc16_withCrc (body : List Byte) : crc16 (withCrc body) = 0#16 := by
  rw [withCrc, crc16_append, crcFrom_pair_eq_zero_iff, pair_hiByte_loByte]

/-- R101 (c): the CRC is linear in the accumulator and the string together. -/
theorem crcFrom_xor (a b : List Byte) (c c' : Word16) (h : a.length = b.length) :
    crcFrom c a ^^^ crcFrom c' b = crcFrom (c ^^^ c') (List.zipWith (· ^^^ ·) a b) := by
  induction a generalizing b c c' with
  | nil =>
    cases b with
    | nil => rfl
    | cons y b => cases h
  | cons x a ih =>
    cases b with
    | nil => cases h
    | cons y b =>
      change crcFrom (crcStep c x) a ^^^ crcFrom (crcStep c' y) b = _
      rw [ih b _ _ (Nat.succ.inj h), crcStep_xor]
      rfl

/-- Settles O1: the definitions as R94 and R95 state them, the check value, and the three laws above. -/
theorem crcTableFormResidueAndDifferences : Obligations.CrcTableFormResidueAndDifferences := by
  refine ⟨fun c => ⟨rfl, fun _ => rfl⟩, fun _ _ => rfl, rfl, fun bytes b => crc16_append bytes [b], by decide +kernel,
    crcStep_table, crc16_withCrc, fun a b a' b' h h' hdiff => ?_⟩
  rw [crc16, crc16, crc16, crc16, crcFrom_xor a b _ _ h, crcFrom_xor a' b' _ _ h', hdiff]

/-! ### PARSE and the trailing CRC -/

/-- The bytes received with the last two apart. -/
theorem State.rxBytes_add_two (s : State) (n : Nat) :
    s.rxBytes (n + 2) = s.rxBytes n ++ [s.rxByte n, s.rxByte (n + 1)] := by
  simp [State.rxBytes, List.range_succ]

/-- The comparison of R112 is that of R101 (b) with 0. -/
theorem State.trailing_crc_iff (s : State) (n : Nat) :
    pair (s.rxByte (n + 4)) (s.rxByte (n + 3)) = crc16 (s.rxBytes (n + 3)) ↔ crc16 (s.rxBytes (n + 5)) = 0#16 := by
  rw [s.rxBytes_add_two (n + 3), crc16_append, crcFrom_pair_eq_zero_iff]

/-- With the CRC right the verdict is of the byte count. -/
theorem State.validate_crc_right {n : Nat} (hlen : s.rxLen.toNat = n + 5)
    (hcrc : pair (s.rxByte (n + 4)) (s.rxByte (n + 3)) = crc16 (s.rxBytes (n + 3))) :
    s.validate.crc = crc16 (s.rxBytes (n + 3)) ∧ s.validate.result ≠ .error .crcMismatch := by
  by_cases hcount : (s.rxByte 2).toNat = n
  · rw [State.validate_ok hlen hcrc hcount, State.matchRequest_frame]
    exact ⟨rfl, nofun⟩
  · rw [State.validate_length hlen hcrc hcount]
    exact ⟨rfl, nofun⟩

/-- Settles O7: a wrong CRC is the validator's second error, and with a right one the verdict is another. -/
theorem parseComparesTheTrailingCrc : Obligations.ParseComparesTheTrailingCrc := by
  intro s n hidle hlen
  have verdict : s.validate.crc = crc16 (s.rxBytes (n + 3)) ∧
      (s.validate.result = .error .crcMismatch ↔
        pair (s.rxByte (n + 4)) (s.rxByte (n + 3)) ≠ crc16 (s.rxBytes (n + 3))) := by
    by_cases hcrc : pair (s.rxByte (n + 4)) (s.rxByte (n + 3)) = crc16 (s.rxBytes (n + 3))
    · obtain ⟨hval, hresult⟩ := State.validate_crc_right hlen hcrc
      exact ⟨hval, iff_of_false hresult (not_not.mpr hcrc)⟩
    · rw [State.validate_crc hlen hcrc]
      exact ⟨rfl, iff_of_true rfl hcrc⟩
  obtain ⟨hval, hiff⟩ := verdict
  refine ⟨s.validate, exec_parse_idle hidle, hval, hiff, hiff.trans (s.trailing_crc_iff n).not, fun hresult => ?_⟩
  rw [State.validate_crc hlen (hiff.mp hresult)]
  exact State.raise_frameError_idle rfl hidle

/-! ### CRC16 and PARSEBYTES -/

/-- A register read while quiescent returns the register's value. -/
theorem issueLine_rd_idle (n : RegNum) (h : s.busy = false) :
    issueLine (.rd n) s = .next (s.logRead (.reg n (s.regValue n))) := by
  have hnot : ¬(n = 3#4 ∧ s.phase = .check) := fun hcheck => by
    rw [State.busy_eq_false, hcheck.2] at h
    cases h
  rw [issueLine, State.readReg, if_neg hnot]

/-- Settles O3: CRCINIT, one CRCBYTE for each byte, and the read. -/
theorem crc16ReturnsTheCrcOfItsBytes : Obligations.Crc16ReturnsTheCrcOfItsBytes := by
  intro bytes s hidle
  change issue (.op .crcinit :: (byteLines .crcbyte bytes ++ [.rd 3#4])) s = _
  have hinit : issueLine (.op .crcinit) s = .next { s with crc := 0xFFFF#16 } := exec_crcinit_idle hidle
  rw [issue_cons _ hidle hinit, issue_crcbytes bytes _ { s with crc := 0xFFFF#16 } hidle,
    issue_cons (s := { s with crc := crcFrom 0xFFFF#16 bytes }) [] hidle (issueLine_rd_idle 3#4 hidle)]
  rfl

/-- The state with these bytes loaded by hand: RXCLR and one RXPUSH for each. -/
def State.loaded (s : State) (bytes : List Byte) : State :=
  { s.clearVerdict with rxBuf := s.rxBuf.writeList 0 bytes, rxLen := BitVec.ofNat 9 bytes.length }

/-- The state PARSEBYTES leaves: the verdict on the loaded bytes, and the two reads of it. -/
def State.parsed (s : State) (bytes : List Byte) : State :=
  { (s.loaded bytes).validate with
    trace := s.trace ++ [.reg 2#4 ((s.loaded bytes).validate.result.code.setWidth 32),
      .reg 13#4 ((s.loaded bytes).validate.payLen.setWidth 32)] }

theorem State.validate_busy (h : s.busy = false) : s.validate.busy = false := by
  rw [State.validate_frame (s.busy_eq_false.mp h)]
  exact h

theorem exec_parsebytes_idle {bytes : List Byte} (h : s.busy = false) (hlen : bytes.length ≤ 256) :
    exec (.parsebytes bytes) s = .next (s.parsed bytes) := by
  change issue (.op .rxclr :: (byteLines .rxpush bytes ++ [.op .parse, .rd 2#4, .rd 13#4])) s = _
  have hclear : issueLine (.op .rxclr) s = .next { s.clearVerdict with rxLen := 0#9 } := exec_rxclr_idle h
  have hloaded : (s.loaded bytes).busy = false := h
  have hparse : issueLine (.op .parse) (s.loaded bytes) = .next (s.loaded bytes).validate := exec_parse_idle hloaded
  have hverdict := State.validate_busy hloaded
  have hpush := issue_rxpushes bytes [.op .parse, .rd 2#4, .rd 13#4] { s.clearVerdict with rxLen := 0#9 } h rfl
    (by simpa using hlen)
  have hstored : { s.clearVerdict with
      rxBuf := s.rxBuf.writeList 0 bytes, rxLen := 0#9 + BitVec.ofNat 9 bytes.length } = s.loaded bytes := by
    rw [BitVec.zero_add]
    rfl
  rw [issue_cons _ h hclear, hpush]
  refine (congrArg (issue _) hstored).trans ?_
  rw [issue_cons _ hloaded hparse, issue_cons _ hverdict (issueLine_rd_idle 2#4 hverdict),
    issue_cons (s := (s.loaded bytes).validate.logRead _) [] hverdict (issueLine_rd_idle 13#4 hverdict),
    State.regValue_payLen (s := (s.loaded bytes).validate.logRead _) hverdict]
  have htrace : (s.loaded bytes).validate.trace = s.trace := by
    rw [State.validate_writes]
    rfl
  rw [State.parsed, ← htrace]
  simp only [issue_nil, State.logRead, List.append_assoc, List.singleton_append]
  rfl

/-- The buffer after PARSEBYTES: its bytes, and above them what was there. -/
theorem State.parsed_rxBuf (s : State) (bytes : List Byte) : (s.parsed bytes).rxBuf = s.rxBuf.writeList 0 bytes := by
  rw [State.parsed, State.validate_writes]
  rfl

/-- Settles O10: the lines of PARSEBYTES load its bytes with the verdict cleared, which the validator writes over. -/
theorem parsebytesLoadsItsBytesAndValidatesThem : Obligations.ParsebytesLoadsItsBytesAndValidatesThem := by
  intro s bytes hidle hlen
  refine ⟨s.parsed bytes, (s.loaded bytes).validate, exec_parsebytes_idle hidle hlen, ?_, fun a ha => ?_, ?_, rfl⟩
  · exact State.rxBytes_of_writeList (s.parsed_rxBuf bytes)
  · rw [s.parsed_rxBuf, Memory.read_writeList_above ha]
  · rw [s.parsed_rxBuf]
    rw [exec_parse_idle (s := { s with rxBuf := _, rxLen := _, tmo := false }) hidle,
      ← State.validate_overwrites _ .none 0#8 false false false]
    rfl

/-! ### Well-formed frames -/

theorem State.loaded_rxBytes (s : State) {bytes : List Byte} {n : Nat} (hn : n ≤ bytes.length) :
    (s.loaded bytes).rxBytes n = bytes.take n :=
  Memory.map_read_writeList s.rxBuf bytes Config.powerOnRx hn

theorem State.loaded_rxByte (s : State) {bytes : List Byte} {i : Nat} (hi : i < bytes.length) :
    (s.loaded bytes).rxByte i = bytes[i] := by
  have hread : (s.loaded bytes).rxBuf.read i = some bytes[i] := by
    change (s.rxBuf.writeList 0 bytes).read i = _
    rw [Memory.read_writeList, if_pos (by omega), Nat.sub_zero, List.getElem?_eq_getElem hi]
  rw [State.rxByte, hread, Option.getD_some]

theorem State.loaded_rxLen (s : State) {bytes : List Byte} (h : bytes.length ≤ 256) :
    (s.loaded bytes).rxLen.toNat = bytes.length := rxLen_ofNat_toNat h

/-- The body of a well-formed response (30_encoding R70): slave id, function code, byte count, payload. -/
def responseBody (id fn : Byte) (p : List Byte) : List Byte := id :: fn :: BitVec.ofNat 8 p.length :: p

theorem withCrc_responseBody_length (id fn : Byte) (p : List Byte) :
    (withCrc (responseBody id fn p)).length = p.length + 5 := by
  rw [withCrc_length]
  rfl

/-- What the validator reads of a well-formed frame: its CRC and its byte count are right. -/
theorem State.loaded_wellFormed (s : State) (id fn : Byte) {p : List Byte} (hp : p.length ≤ 251) :
    let t := s.loaded (withCrc (responseBody id fn p))
    t.rxLen.toNat = p.length + 5 ∧ t.rxBytes (p.length + 3) = responseBody id fn p ∧
      pair (t.rxByte (p.length + 4)) (t.rxByte (p.length + 3)) = crc16 (t.rxBytes (p.length + 3)) ∧
      (t.rxByte 2).toNat = p.length := by
  intro t
  have hlen := withCrc_responseBody_length id fn p
  have hbody : t.rxBytes (p.length + 3) = responseBody id fn p := by
    rw [State.loaded_rxBytes s (by omega), withCrc]
    exact List.take_left' rfl
  refine ⟨(s.loaded_rxLen (by omega)).trans hlen, hbody, ?_, ?_⟩
  · have hall : t.rxBytes (p.length + 5) = withCrc (responseBody id fn p) := by
      rw [State.loaded_rxBytes s (by omega), List.take_of_length_le (by omega)]
    rw [t.trailing_crc_iff, hall, crc16_withCrc]
  · rw [s.loaded_rxByte (by omega)]
    change (BitVec.ofNat 8 p.length).toNat = p.length
    rw [BitVec.toNat_ofNat]
    omega

/-- Settles O11: a well-formed frame passes the three checks, and the bytes after its header are its payload. -/
theorem parsebytesRecoversThePayload : Obligations.ParsebytesRecoversThePayload := by
  intro s id fn p hidle hp
  change ∃ t, exec (.parsebytes (withCrc (responseBody id fn p))) s = .next t ∧ _
  have hlen := withCrc_responseBody_length id fn p
  obtain ⟨hrx, hbody, hcrc, hcount⟩ := s.loaded_wellFormed id fn hp
  have hvalid := State.validate_ok hrx hcrc hcount
  rw [State.matchRequest_frame] at hvalid
  generalize hframe : withCrc (responseBody id fn p) = frame at *
  have hpay : (s.loaded frame).rxByte 2 = BitVec.ofNat 8 p.length := by
    rw [← hcount, BitVec.ofNat_toNat, BitVec.setWidth_eq]
  refine ⟨s.parsed frame, exec_parsebytes_idle hidle (by omega), ?_⟩
  rw [State.parsed, hvalid]
  refine ⟨rfl, hcount, ?_, ?_, fun a ha => ?_, ?_⟩
  · have hpayload := State.payload_eq_drop (s := { s.loaded frame with payLen := (s.loaded frame).rxByte 2 }) hcount
    change State.payload { s.loaded frame with payLen := (s.loaded frame).rxByte 2 } = p
    rw [hpayload]
    change ((s.loaded frame).rxBytes (p.length + 3)).drop 3 = p
    rw [hbody]
    rfl
  · exact congrArg crc16 hbody
  · exact Memory.read_writeList_above (by omega)
  · have hread : ((s.loaded frame).rxByte 2).setWidth 32 = BitVec.ofNat 32 p.length := by
      apply BitVec.eq_of_toNat_eq
      rw [BitVec.toNat_setWidth, hcount, BitVec.toNat_ofNat]
    rw [← hread, ← hlen]
    rfl

/-! ### A flipped bit -/

/-- Flipping a bit changes a byte. -/
theorem xor_bit_ne (b : Byte) {k : Nat} (hk : k < 8) : b ^^^ (1#8 <<< k) ≠ b := by
  intro h
  have hbit := congrArg (·.getLsbD k) h
  simp [-BitVec.getLsbD_eq_getElem, hk] at hbit

/-- Settles O12: a frame has CRC 0 and one changed byte changes it, so that the trailing CRC is wrong; the length is
unchanged and at least five. -/
theorem singleBitFlipFailsWithCrcMismatch : Obligations.SingleBitFlipFailsWithCrcMismatch := by
  intro s id fn p frame i k hidle hp hframe hi hk
  have hlen : frame.length = p.length + 5 := by
    rw [hframe]
    exact withCrc_responseBody_length id fn p
  generalize hx : frame.getD i 0#8 ^^^ (1#8 <<< k) = x
  have hchanged : x ≠ frame[i] := by
    rw [← hx, List.getD_eq_getElem _ _ hi]
    exact xor_bit_ne _ hk
  have hset : (frame.set i x).length = p.length + 5 := by rw [List.length_set, hlen]
  have hresidue : crc16 (frame.set i x) ≠ 0#16 := by
    have hzero : crc16 frame = 0#16 := by rw [hframe, crc16_withCrc]
    rw [← hzero]
    exact crcFrom_set_ne frame Config.crcInit i x hi hchanged
  have hrx : (s.loaded (frame.set i x)).rxLen.toNat = p.length + 5 := by rw [s.loaded_rxLen (by omega), hset]
  have hcrc : ¬crc16 ((s.loaded (frame.set i x)).rxBytes (p.length + 5)) = 0#16 := by
    rw [s.loaded_rxBytes (by omega), List.take_of_length_le (by omega)]
    exact hresidue
  rw [← State.trailing_crc_iff] at hcrc
  refine ⟨s.parsed (frame.set i x), exec_parsebytes_idle hidle (by omega), ?_⟩
  rw [State.parsed, State.validate_crc hrx hcrc]
  rfl

end Sys2Proof.Machine
end

section
/-! PROOFS. A whole transaction (42_uart_transceiver R144): the script of its answers taken one after another, the state
after the write phase and after the answer's bytes, and how it ends. -/

namespace Sys2Proof.Machine

variable {s : State}

/-! ### Scripts -/

theorem State.scripted_cons (s : State) (e : Event) (es : List Event) :
    s.scripted (e :: es) = (s.scripted es).eventNext e := rfl

/-- One answer of a script that touches nothing of the rest of it. -/
theorem runSteps_scripted_cons {e : Event} {es : List Event} {s t : State} (k : Nat)
    (h : runEvent e (s.scripted es) = .next (t.scripted es)) :
    runSteps (k + 1) (s.scripted (e :: es)) = runSteps k (t.scripted es) :=
  runSteps_succ k (by rw [State.scripted_cons, step_eventNext, h])

/-- A tick outside the receive phase is one step of the sequencer. -/
theorem runSteps_tick {es : List Event} {s t : State} (k ms : Nat) (hp : s.phase ≠ .rx)
    (h : (s.scripted es).sequencerStep true = t.scripted es) :
    runSteps (k + 1) (s.scripted (.tick ms :: es)) = runSteps k (t.scripted es) := by
  refine runSteps_scripted_cons k ?_
  have hstopped : (s.scripted es).advanceTimer ms = s.scripted es := State.advanceTimer_stopped ms hp
  rw [runEvent_tick, hstopped, h]

/-- Bytes sent one tick each (R136). -/
theorem runSteps_sendBytes (n i k : Nat) (es : List Event) (s : State) (hp : s.phase = .tx) (hi : s.txIdx.toNat = i)
    (h : i + n ≤ 8) :
    runSteps (n + k) (s.scripted (List.replicate n (.tick 0) ++ es)) = runSteps k ((s.sendBytes n).scripted es) := by
  induction n generalizing s i with
  | zero => rw [Nat.zero_add, List.replicate_zero, List.nil_append, State.sendBytes]
  | succ n ih =>
    have hsent : s.sendByte.txIdx.toNat = i + 1 := by
      have hone := congrArg State.txIdx (State.sendBytes_eq 1 i s hi (by omega))
      rw [show s.sendByte.txIdx = BitVec.ofNat 4 (i + 1) from hone, BitVec.toNat_ofNat]
      omega
    rw [List.replicate_succ, List.cons_append, show n + 1 + k = (n + k) + 1 by omega,
      runSteps_tick (t := s.sendByte) _ 0 (by simp [hp]) (State.sequencerStep_tx_send (s := s.scripted _) hp
        (show s.txIdx.toNat < 8 by omega)),
      ih (i + 1) s.sendByte hp hsent (by omega)]
    rfl

/-- The characters of a byte string, one answer each (R139). -/
theorem runSteps_chars (bytes : List Byte) (k : Nat) (es : List Event) (s : State) :
    runSteps (bytes.length + k) (s.scripted (bytes.map charEvent ++ es)) =
      runSteps k ((s.receiveBytes bytes).scripted es) := by
  induction bytes generalizing s with
  | nil => rw [List.length_nil, Nat.zero_add, List.map_nil, List.nil_append, State.receiveBytes]
  | cons b bytes ih =>
    have hbyte (es : List Event) : (s.scripted es).receiveByte b = (s.receiveByte b).scripted es := by
      cases hr : s.receiving with
      | true => rw [State.receiveByte_on b hr, State.receiveByte_on (s := s.scripted es) b hr]; rfl
      | false => rw [State.receiveByte_off b hr, State.receiveByte_off (s := s.scripted es) b hr]
    rw [List.length_cons, List.map_cons, List.cons_append, show bytes.length + 1 + k = (bytes.length + k) + 1 by omega,
      runSteps_scripted_cons _ (by rw [runEvent_charEvent, hbyte]), ih (s.receiveByte b)]
    rfl

/-! ### The stages of a transaction -/

/-- The state after the acceptance of XFER and `n` bytes of the write. -/
def State.sent (s : State) (n : Nat) : State :=
  { s.acceptXfer with txIdx := BitVec.ofNat 4 n, hist := s.hist ++ (s.txBytes n).map .txByte }

/-- The state after the write phase. -/
def State.written (s : State) : State :=
  { s.acceptXfer with
    txIdx := 8#4, phase := .rx, timer := some 0
    hist := s.hist ++ (s.txBytes 8).map .txByte ++ [.log .tx (s.txBytes 8)] }

/-- The state after the write phase and the characters of an answer that fits. -/
def State.answered (s : State) (bytes : List Byte) : State :=
  { s.written with
    rxBuf := s.rxBuf.writeList 0 bytes, rxLen := BitVec.ofNat 9 bytes.length
    hist := s.hist ++ (s.txBytes 8).map .txByte ++ [.log .tx (s.txBytes 8)] ++ bytes.map .rxByte }

/-- A transaction can start: quiescent, the session open, a request built (R127). -/
structure State.Ready (s : State) : Prop where
  phase : s.phase = .idle
  session : s.sess = .idle
  built : s.txLen = 8#4

theorem State.Ready.busy (h : s.Ready) : s.busy = false := s.busy_eq_false.mpr h.phase

theorem runSteps_xfer (h : s.Ready) (k : Nat) (es : List Event) :
    runSteps (k + 1) ((s.scripted es).hostNext (.op .xfer)) = runSteps k (s.acceptXfer.scripted es) := by
  refine runSteps_succ k ?_
  rw [step_hostNext]
  exact exec_xfer_idle (s := s.scripted es) h.busy h.session h.built

theorem runSteps_sent (h : s.Ready) {n : Nat} (hn : n ≤ 8) (k : Nat) (es : List Event) :
    runSteps (n + k + 1) ((s.scripted (List.replicate n (.tick 0) ++ es)).hostNext (.op .xfer)) =
      runSteps k ((s.sent n).scripted es) := by
  rw [runSteps_xfer h, runSteps_sendBytes n 0 k es s.acceptXfer rfl rfl (by omega), State.sendBytes_begin rfl hn]
  rfl

theorem runSteps_written (h : s.Ready) (k : Nat) (es : List Event) :
    runSteps (k + 10) ((s.scripted (sendScript ++ es)).hostNext (.op .xfer)) = runSteps k (s.written.scripted es) := by
  have hscript : sendScript ++ es = List.replicate 8 (.tick 0) ++ (.tick 0 :: es) := rfl
  rw [hscript, show k + 10 = 8 + (k + 1) + 1 by omega, runSteps_sent h (le_refl 8),
    runSteps_tick (t := (s.sent 8).endWrite) k 0 (by simp [State.sent, State.acceptXfer])
      (State.sequencerStep_tx_end (s := (s.sent 8).scripted es) rfl rfl)]
  rfl

theorem State.receiveBytes_written {bytes : List Byte} (hlen : bytes.length ≤ s.expLen.toNat)
    (hexp : s.expLen.toNat ≤ 256) : s.written.receiveBytes bytes = s.answered bytes := by
  have hzero : s.written.rxLen.toNat = 0 := rfl
  rw [State.receiveBytes_on (s := s.written) bytes rfl (Nat.zero_le _) hexp, hzero, Nat.sub_zero,
    List.take_of_length_le (show bytes.length ≤ s.written.expLen.toNat from hlen),
    Nat.min_eq_left (show bytes.length ≤ s.written.expLen.toNat from hlen),
    show s.written.rxLen + BitVec.ofNat 9 bytes.length = BitVec.ofNat 9 bytes.length from BitVec.zero_add _]
  rfl

theorem runSteps_answered (h : s.Ready) {bytes : List Byte} (hlen : bytes.length ≤ s.expLen.toNat)
    (hexp : s.expLen.toNat ≤ 256) (k : Nat) (es : List Event) :
    runSteps (bytes.length + k + 10) ((s.scripted (sendScript ++ bytes.map charEvent ++ es)).hostNext (.op .xfer)) =
      runSteps k ((s.answered bytes).scripted es) := by
  rw [List.append_assoc, runSteps_written h, runSteps_chars, State.receiveBytes_written hlen hexp]

/-! ### The ends -/

/-- One last answer ends a run. -/
theorem runSteps_last {e : Event} {es : List Event} {s t : State} (h : runEvent e (s.scripted es) = .next t) :
    runSteps 1 (s.scripted (e :: es)) = some t :=
  (runSteps_succ 0 (by rw [State.scripted_cons, step_eventNext, h])).trans rfl

/-- The log of an answer is its bytes. -/
theorem State.answered_log {bytes : List Byte} (hlen : bytes.length ≤ 256) :
    (s.answered bytes).rxLen.toNat = bytes.length ∧
      (s.answered bytes).rxBytes (s.answered bytes).rxLen.toNat = bytes := by
  have hcount : (s.answered bytes).rxLen.toNat = bytes.length := rxLen_ofNat_toNat hlen
  exact ⟨hcount, hcount ▸ State.rxBytes_of_writeList rfl⟩

/-- Settles O20: the write phase, whole or in part, then the step of a dead link. -/
theorem xferWithFatalError : Obligations.XferWithFatalError := by
  intro s hp hs hb
  have h : s.Ready := ⟨hp, hs, hb⟩
  refine ⟨fun j hj => ?_, fun bytes hlen hexp => ?_⟩
  · rw [show j + 2 = j + 1 + 1 from rfl, runSteps_sent h hj 1 [.linkDown], runSteps_last (runEvent_linkDown _),
      State.sequencerStep_tx_dead (s := (s.sent j).scripted []) rfl, State.fatalTx_eq]
    have hidx : ((s.sent j).scripted []).txIdx.toNat = j := by
      change (BitVec.ofNat 4 j).toNat = j
      rw [BitVec.toNat_ofNat]
      omega
    rw [hidx, hp]
    rfl
  · have hbytes : ((s.answered bytes).rxLen).toNat = bytes.length := rxLen_ofNat_toNat (by omega)
    have hlog : (s.answered bytes).rxBytes (s.answered bytes).rxLen.toNat = bytes := by
      rw [hbytes]
      exact State.rxBytes_of_writeList rfl
    refine ⟨(s.answered bytes).fatalRx, ?_, ?_⟩
    · rw [show bytes.length + 11 = bytes.length + 1 + 10 by omega, runSteps_answered h hlen.le hexp 1 [.linkDown],
        runSteps_last (runEvent_linkDown _), State.sequencerStep_rx_dead (s := (s.answered bytes).scripted []) rfl]
      rfl
    · rw [State.fatalRx_eq, hlog]
      refine ⟨hbytes, State.rxBytes_of_writeList rfl, fun a => Memory.read_writeList_above, ?_⟩
      rw [hp]
      rfl

/-- An answer that stays short times out at the tick that brings the timer to `TIMEOUT` (R141). -/
theorem runEvent_tick_answered {bytes : List Byte} {ms : Nat} (hlen : bytes.length < s.expLen.toNat)
    (hexp : s.expLen.toNat ≤ 256) (htime : s.timeout.toNat ≤ ms) (es : List Event) :
    runEvent (.tick ms) ((s.answered bytes).scripted es) = .next ((s.answered bytes).readTimeout.scripted es) := by
  have hbelow : (s.answered bytes).rxLen.toNat < s.expLen.toNat := by
    rw [(State.answered_log (by omega)).1]
    exact hlen
  have htimer : s.timeout.toNat ≤ ((s.answered bytes).scripted es).timer.getD 0 + ms := by
    change s.timeout.toNat ≤ 0 + ms
    omega
  exact (runEvent_tick_below (s := (s.answered bytes).scripted es) ms rfl hbelow).trans
    (congrArg _ (if_pos htimer))

/-- Settles O21: below `EXPLEN` the read times out. -/
theorem xferWithShortAnswerTimesOut : Obligations.XferWithShortAnswerTimesOut := by
  intro s bytes ms hp hs hb hlen hexp htime
  have h : s.Ready := ⟨hp, hs, hb⟩
  obtain ⟨hcount, hlog⟩ := State.answered_log (s := s) (bytes := bytes) (by omega)
  refine ⟨(s.answered bytes).readTimeout, ?_, ?_⟩
  · rw [show bytes.length + 11 = bytes.length + 1 + 10 by omega, runSteps_answered h hlen.le hexp 1 [.tick ms],
      runSteps_last (runEvent_tick_answered hlen hexp htime [])]
    rfl
  · rw [State.readTimeout_eq, hlog]
    refine ⟨hcount, State.rxBytes_of_writeList rfl, fun a => Memory.read_writeList_above, ?_⟩
    rw [hp]
    rfl

/-- The validate step leaves the rest of the script. -/
theorem State.checkFrame_scripted (s : State) (es : List Event) :
    (s.scripted es).checkFrame = s.checkFrame.scripted es := by
  have hcongr := State.validate_congr (s := s.ended) (t := (s.scripted es).ended) rfl rfl rfl rfl rfl rfl rfl
  rw [State.checkFrame_eq_validate, State.checkFrame_eq_validate, hcongr,
    State.validate_frame (s := s.ended) rfl]
  rfl

/-- A complete read and its validation (R140, R143). -/
theorem runSteps_checked {u : State} (hp : u.phase = .rx) (hlen : u.rxLen = u.expLen) (k : Nat) (es : List Event) :
    runSteps (k + 2) (u.scripted (.tick 0 :: .tick 0 :: es)) = runSteps k (u.endRead.checkFrame.scripted es) := by
  have hread (es : List Event) : runEvent (.tick 0) (u.scripted es) = .next (u.endRead.scripted es) := by
    rw [runEvent_tick, State.advanceTimer_running (s := u.scripted es) 0 hp]
    exact congrArg _ (State.sequencerStep_rx_full (s := { u.scripted es with timer := _ }) hp hlen)
  rw [runSteps_scripted_cons (k + 1) (hread _),
    runSteps_tick k 0 (by simp [State.endRead])
      ((State.sequencerStep_check (s := u.endRead.scripted es) true rfl).trans (State.checkFrame_scripted _ es))]

/-- The verdict on a full answer is the one PARSEBYTES gives on its bytes from the same start. -/
theorem State.checked_eq (h : s.Ready) (bytes : List Byte) :
    (s.answered bytes).endRead.checkFrame = { (s.answered bytes).endRead.ended with
      result := (s.parsed bytes).result, crc := (s.parsed bytes).crc, payLen := (s.parsed bytes).payLen
      slvOk := (s.parsed bytes).slvOk, funOk := (s.parsed bytes).funOk, cntOk := (s.parsed bytes).cntOk } := by
  rw [State.checkFrame_eq_validate]
  exact State.validate_congr (s := s.loaded bytes) (t := (s.answered bytes).endRead.ended) h.phase rfl rfl rfl rfl rfl rfl

/-- Settles O22: a complete read is validated as PARSEBYTES validates the same bytes. -/
theorem xferWithFullAnswerGivesTheParsebytesVerdict : Obligations.XferWithFullAnswerGivesTheParsebytesVerdict := by
  intro s bytes hp hs hb hlen hexp
  have h : s.Ready := ⟨hp, hs, hb⟩
  obtain ⟨hcount, hlog⟩ := State.answered_log (s := s) (bytes := bytes) (by omega)
  have hfull : (s.answered bytes).rxLen = s.expLen := BitVec.eq_of_toNat_eq (hcount.trans hlen)
  refine ⟨(s.answered bytes).endRead.checkFrame, s.parsed bytes, ?_, exec_parsebytes_idle h.busy (by omega), ?_⟩
  · rw [show bytes.length + 12 = bytes.length + 2 + 10 by omega,
      runSteps_answered h hlen.le hexp 2 [.tick 0, .tick 0], runSteps_checked (k := 0) rfl hfull]
    rfl
  · rw [State.checked_eq h]
    refine ⟨State.rxBytes_of_writeList rfl, fun a => Memory.read_writeList_above, ?_⟩
    have hrec : (s.answered bytes).endRead.ended = { (s.answered bytes) with
        phase := .idle, sess := .idle, timer := none, rxLen := s.expLen
        hist := (s.answered bytes).hist ++ [.log .rx bytes] } := by
      rw [← hfull]
      exact congrArg (fun l => State.ended { s.answered bytes with
        hist := (s.answered bytes).hist ++ [.log .rx l], phase := .check, timer := none }) hlog
    rw [hrec, hp, hs]
    rfl

end Sys2Proof.Machine
end

section
/-! PROOFS. The host port (10_state R36, 20_memory R48 to R57): register writes and reads, buffer reads, what is left of
them while busy, the `STATUS` word; and the step around `exec`. -/

namespace Sys2Proof.Machine

variable {s : State}

/-! ### The step -/

theorem runLine_cmd {v : Word32} {i : Instr} (s : State) (h : decode (.cmd (v.setWidth 16)) = .ok i) :
    runLine (.wr 0#4 v) s = exec i s := by
  simp only [runLine, if_true, h]

theorem runLine_op {i : Instr} (s : State) (h : i.isWire = false) : runLine (.op i) s = exec i s := by
  simp only [runLine, h, Bool.false_eq_true, if_false]

theorem runEvent_frame {kind : FrameKind} {bytes : List Byte} {i : Instr} (s : State)
    (h : decode (.frame kind bytes) = .ok i) : runEvent (.frame kind bytes) s = exec i s := by
  simp only [runEvent, lineFrame, h]

theorem runEvent_char_decoded {levels : BitVec 10} {i : Instr} (s : State) (h : decode (.char levels) = .ok i) :
    runEvent (.char levels) s = exec i s := by
  simp only [runEvent, lineChar, h]

/-- A placed code runs at the next step (log 3). -/
theorem step_placeCode {c : Code} {i : Instr} (s : State) (h : decode c = .ok i) : step (placeCode c s) = exec i s := by
  cases c with
  | cmd w =>
    have hword : (w.setWidth 32).setWidth 16 = w := BitVec.setWidth_setWidth_of_le w (by decide)
    exact runLine_cmd (v := w.setWidth 32) s (by rw [hword, h])
  | frame kind bytes => exact runEvent_frame s h
  | char levels => exact runEvent_char_decoded s h

theorem decode_of_decodeTableWord {nbits w : Nat} {i : Instr} (h : decodeTableWord nbits w = some i) :
    decode (codeOfTableWord nbits w) = .ok i := by
  unfold decodeTableWord at h
  split at h
  · next j hj =>
    cases h
    exact hj
  · cases h

/-- Settles O46: the host's turn and the line take the decoded instruction to `exec`, and a table word is placed as a code
where one of them is next. -/
theorem stepRunsTheDecodedInstruction : Obligations.StepRunsTheDecodedInstruction :=
  fun s _ => ⟨fun _ => runLine_cmd s, runLine_op s, fun _ _ => runEvent_frame s, fun _ => runEvent_char_decoded s,
    fun _ _ h => step_placeCode s (decode_of_decodeTableWord h)⟩

/-- Settles O48: reset asks nothing of the state, and writes the reset values over the block's fields. -/
theorem resetFromAnyState : Obligations.ResetFromAnyState := fun _ => rfl

/-! ### Register writes -/

theorem runLine_wr {n : RegNum} (v : Word32) (s : State) (hn : n ≠ 0#4) :
    runLine (.wr n v) s = .next (s.writeReg n v) := by
  simp only [runLine, issueLine, hn, if_false]

theorem State.writeReg_idle (n : RegNum) (v : Word32) (h : s.busy = false) : s.writeReg n v = s.storeReg n v :=
  if_neg fun hlocked => by
    rw [h] at hlocked
    exact nomatch hlocked.1

theorem runLine_wr_idle {n : RegNum} (v : Word32) (hn : n ≠ 0#4) (h : s.busy = false) :
    runLine (.wr n v) s = .next (s.storeReg n v) := by
  rw [runLine_wr v s hn, State.writeReg_idle n v h]

/-- The read-only and the reserved registers have no storage (R36, R196 c). -/
theorem State.storeReg_readOnly {n : RegNum} (s : State) (v : Word32)
    (hn : n.toNat ∈ [1, 2, 10, 11, 12, 13, 14, 15]) : s.storeReg n v = s.refuse := by
  simp only [List.mem_cons, List.not_mem_nil, or_false] at hn
  rcases hn with hn | hn | hn | hn | hn | hn | hn | hn <;> simp only [State.storeReg, hn]

/-- Settles O27: each write stores the low bits in its register, and the others find no storage. -/
theorem registerWritesKeepTheLowBits : Obligations.RegisterWritesKeepTheLowBits := by
  intro s v hidle
  have stored (n : RegNum) (hn : n ≠ 0#4) : step (s.hostNext (.wr n v)) = .next (s.storeReg n v) :=
    runLine_wr_idle v hn hidle
  refine ⟨stored 3#4 (by decide), stored 4#4 (by decide), stored 5#4 (by decide), stored 6#4 (by decide),
    stored 7#4 (by decide), stored 8#4 (by decide), stored 9#4 (by decide), fun n hn => ?_⟩
  have hzero : n ≠ 0#4 := by
    rintro rfl
    exact absurd hn (by decide)
  rw [stored n hzero, s.storeReg_readOnly v hn]
  rfl

/-! ### Register reads -/

theorem State.readReg_eq (n : RegNum) (h : n = 3#4 → s.phase ≠ .check) :
    s.readReg n = s.logRead (.reg n (s.regValue n)) := if_neg fun hcheck => h hcheck.1 hcheck.2

/-- R88: the codes of `RESULT` at the port. -/
theorem regValue_result (s : State) : s.regValue 2#4 = s.result.code.setWidth 32 := rfl

/-- Settles O28: a read adds the register's value to the trace, and each register's value is the one stated. -/
theorem registerReadsChangeNothing : Obligations.RegisterReadsChangeNothing := by
  intro s n v hmem hcrc
  have hvalue : s.regValue n = v := by
    simp only [List.mem_cons, List.not_mem_nil, or_false, Prod.mk.injEq] at hmem
    rcases hmem with ⟨rfl, rfl⟩ | ⟨rfl, rfl⟩ | ⟨rfl, rfl⟩ | ⟨rfl, rfl⟩ | ⟨rfl, rfl⟩ | ⟨rfl, rfl⟩ | ⟨rfl, rfl⟩ |
      ⟨rfl, rfl⟩ | ⟨rfl, rfl⟩ | ⟨rfl, rfl⟩ | ⟨rfl, rfl⟩ | ⟨rfl, rfl⟩ | ⟨rfl, rfl⟩ | ⟨rfl, rfl⟩ | ⟨rfl, rfl⟩ | ⟨rfl, rfl⟩
    case inr.inr.inl =>
      rw [regValue_result]
      cases s.result with
      | none | ok => rfl
      | error code => cases code <;> rfl
    all_goals rfl
  rw [step_hostNext]
  change Host.Outcome.next (s.readReg n) = _
  rw [State.readReg_eq n hcrc, hvalue]
  rfl

/-! ### Buffer reads -/

theorem State.readTxBuf_held {i : Nat} (hi : i < 8) (h : i < s.txLen.toNat) :
    s.readTxBuf i = .next (s.logRead (.tx i (s.txByte i))) :=
  (if_neg (Nat.not_le.mpr hi)).trans (if_pos h)

theorem State.readTxBuf_stale {i : Nat} (hi : i < 8) (h : s.txLen.toNat ≤ i) :
    s.readTxBuf i = .next (s.logRead (.tx i (Config.staleByte s.draws))).drawn :=
  (if_neg (Nat.not_le.mpr hi)).trans (if_neg (Nat.not_lt.mpr h))

theorem State.readRxBuf_held {i : Nat} (hi : i < 256) (h : i < s.rxLen.toNat) :
    s.readRxBuf i = .next (s.logRead (.rx i (s.rxByte i))) :=
  (if_neg (Nat.not_le.mpr hi)).trans (if_pos h)

theorem State.readRxBuf_stale {i : Nat} (hi : i < 256) (h : s.rxLen.toNat ≤ i) :
    s.readRxBuf i = .next (s.logRead (.rx i (Config.staleByte s.draws))).drawn :=
  (if_neg (Nat.not_le.mpr hi)).trans (if_neg (Nat.not_lt.mpr h))

/-- Settles O29: by the index against the valid length and the capacity. -/
theorem bufferReadsReturnTheBytes : Obligations.BufferReadsReturnTheBytes := by
  intro s i
  refine ⟨fun b hi hlen hb => ?_, fun b hi hlen hb => ?_, fun hi hlen => ⟨_, State.readTxBuf_stale hi hlen⟩,
    fun hi hlen => ⟨_, State.readRxBuf_stale hi hlen⟩, fun hi => if_pos hi, fun hi => if_pos hi⟩
  · have hread : s.txByte i = b := by rw [State.txByte, hb, Option.getD_some]
    exact (State.readTxBuf_held hi hlen).trans (by rw [hread]; rfl)
  · have hread : s.rxByte i = b := by rw [State.rxByte, hb, Option.getD_some]
    exact (State.readRxBuf_held hi hlen).trans (by rw [hread]; rfl)

/-! ### While busy -/

/-- R56: a write of `CMD` is a command or a reserved word, and both are refused. -/
theorem runLine_cmd_busy (v : Word32) (h : s.busy = true) : runLine (.wr 0#4 v) s = .next s.refuse := by
  cases hword : decode (.cmd (v.setWidth 16)) with
  | ok i => rw [runLine_cmd s hword, exec_command_busy (isCommand_of_decodeCmd hword) h]
  | error e => exact runLine_cmd_error s hword

theorem runLine_wr_busy {n : RegNum} (v : Word32) (h : s.busy = true) (hn : n ≠ 9#4) :
    runLine (.wr n v) s = .next s.refuse := by
  by_cases hzero : n = 0#4
  · subst hzero
    exact runLine_cmd_busy v h
  · rw [runLine_wr v s hzero, State.writeReg, if_pos ⟨h, hn⟩]

/-- Settles O30: a command, a write of `CMD` and a register write are refused as R56 says, a write of `TIMEOUT` is
performed, and a read adds to the trace, with at most one free value drawn. -/
theorem busyRefusesAllButTimeoutAndReads : Obligations.BusyRefusesAllButTimeoutAndReads := by
  intro s hbusy
  refine ⟨fun i hi => exec_command_busy hi hbusy, fun n v hn => runLine_wr_busy v hbusy hn, fun v => ?_, fun n => ?_,
    fun i hi => ?_, fun i hi => ?_⟩
  · exact (runLine_wr v s (by decide)).trans (congrArg _ (if_neg fun h => h.2 rfl))
  · rw [step_hostNext]
    change ∃ r d, Host.Outcome.next (s.readReg n) = _
    unfold State.readReg
    split <;> exact ⟨_, _, rfl⟩
  · rcases Nat.lt_or_ge i s.txLen.toNat with hlen | hlen
    · exact ⟨_, _, State.readTxBuf_held hi hlen⟩
    · exact ⟨_, _, State.readTxBuf_stale hi hlen⟩
  · rcases Nat.lt_or_ge i s.rxLen.toNat with hlen | hlen
    · exact ⟨_, _, State.readRxBuf_held hi hlen⟩
    · exact ⟨_, _, State.readRxBuf_stale hi hlen⟩

/-! ### The `STATUS` word -/

theorem State.shown_eq_true (s : State) (flag : Bool) : s.shown flag = true ↔ flag = true ∧ s.phase = .idle := by
  simp [State.shown, State.busy]

/-- R15: the places of the fields. -/
theorem State.status_fields (s : State) :
    s.status.extractLsb' 0 2 = s.sess.code ∧ s.status.getLsbD 2 = s.busy ∧ s.status.getLsbD 3 = s.cmdErr ∧
    s.status.getLsbD 4 = s.fErr ∧ s.status.getLsbD 5 = s.shown s.tmo ∧ s.status.getLsbD 6 = s.shown s.slvOk ∧
    s.status.getLsbD 7 = s.shown s.funOk ∧ s.status.getLsbD 8 = s.shown s.cntOk ∧ s.status.getLsbD 9 = s.txEn ∧
    s.status.extractLsb' 10 6 = 0#6 := by
  unfold State.status
  generalize s.sess.code = code, s.busy = b2, s.cmdErr = b3, s.fErr = b4, s.shown s.tmo = b5, s.shown s.slvOk = b6,
    s.shown s.funOk = b7, s.shown s.cntOk = b8, s.txEn = b9
  revert code b2 b3 b4 b5 b6 b7 b8 b9
  decide +kernel

/-- Settles O32: the places of the fields, and what each of the derived ones stands for. -/
theorem statusWordHoldsTheFlags : Obligations.StatusWordHoldsTheFlags := by
  intro s
  obtain ⟨hsess, hbusy, hcmd, hframe, htmo, hslv, hfun, hcnt, htx, hrest⟩ := s.status_fields
  rw [hsess, hbusy, hcmd, hframe, htmo, hslv, hfun, hcnt, htx]
  refine ⟨?_, s.busy_eq_true, rfl, rfl, s.shown_eq_true _, s.shown_eq_true _, s.shown_eq_true _, s.shown_eq_true _,
    decide_eq_true_iff, hrest⟩
  cases s.sess <;> rfl

end Sys2Proof.Machine
end

section
/-! PROOFS. The host's program (30_encoding R86, R87, 43_host_software R186): WAIT, REQ, TRANSACT and POLL issued to a
quiescent block, and the pseudo-operations issued while it is busy. -/

namespace Sys2Proof.Machine

variable {s : State}

/-! ### WAIT, and expansions while busy -/

theorem execWait_idle (h : s.busy = false) : execWait s = .next (s.logRead (.reg 1#4 (s.status.setWidth 32))) := by
  rw [execWait, h]
  rfl

theorem execWait_busy (h : s.busy = true) :
    execWait s = .next ((s.logRead (.reg 1#4 (s.status.setWidth 32))).queue [.op .wait]) := by
  rw [execWait, h]
  rfl

/-- Settles O33: one read of `STATUS`, and while busy WAIT again at the head of the program. -/
theorem waitReadsStatusUntilQuiescent : Obligations.WaitReadsStatusUntilQuiescent :=
  fun _ => ⟨execWait_idle, execWait_busy⟩

/-- Settles O34: lines issued while busy are queued, and each pseudo-operation's lines are those stated. -/
theorem pseudoOperationsIssuedWhileBusyWait : Obligations.PseudoOperationsIssuedWhileBusyWait :=
  fun s _ _ _ _ _ _ h => ⟨issue_busy _ h, issue_busy _ h, issue_busy _ h, issue_busy _ h,
    issue_busy (s := { s with retries := 0 }) _ h⟩

/-! ### REQ -/

/-- The registers as REQ writes them: the low bits of its operands (10_state R36). -/
def State.addressed (s : State) (a f b c : Word32) : State :=
  { s with slave := a.setWidth 8, func := f.setWidth 8, start := b.setWidth 16, count := c.setWidth 16 }

/-- The state REQ leaves: its request built, or refused for its count (41_frame_codec R104, R106). -/
def State.requested (s : State) (a f b c : Word32) : State :=
  if (c.setWidth 16).toNat ≤ 125 then (s.addressed a f b c).buildRequest else (s.addressed a f b c).refuse

theorem State.requested_built {c : Word32} (s : State) (a f b : Word32) (hc : (c.setWidth 16).toNat ≤ 125) :
    s.requested a f b c = (s.addressed a f b c).buildRequest := if_pos hc

theorem State.requested_refused {c : Word32} (s : State) (a f b : Word32) (hc : 125 < (c.setWidth 16).toNat) :
    s.requested a f b c = (s.addressed a f b c).refuse := if_neg (Nat.not_le.mpr hc)

/-- REQ's lines, whatever follows them. -/
theorem issue_reqLines (h : s.busy = false) (a f b c : Word32) (ls : List Line) :
    issue (reqLines a f b c ++ ls) s = issue ls (s.requested a f b c) := by
  rcases Nat.lt_or_ge 125 (c.setWidth 16).toNat with hc | hc
  · rw [issue_req_refused a f b c ls s h hc, s.requested_refused a f b hc]
    rfl
  · rw [issue_req a f b c ls s h hc, s.requested_built a f b hc]
    rfl

theorem exec_req_idle (h : s.busy = false) (a f b c : Word32) :
    exec (.req a f b c) s = .next (s.requested a f b c) := by
  have hissue := issue_reqLines h a f b c []
  rw [List.append_nil] at hissue
  exact hissue

/-- All REQ can write. -/
theorem State.requested_writes (s : State) (a f b c : Word32) :
    s.requested a f b c = { s.addressed a f b c with
      txBuf := (s.requested a f b c).txBuf, crc := (s.requested a f b c).crc, txLen := (s.requested a f b c).txLen
      expLen := (s.requested a f b c).expLen, cmdErr := (s.requested a f b c).cmdErr } := by
  unfold State.requested
  split <;> rfl

/-- A built request (41_frame_codec R102, R103): the frame of the operands, its CRC, the length of its answer, and no byte
from 8 up. -/
theorem State.requested_frame {c : Word32} (s : State) (a f b : Word32) (hc : (c.setWidth 16).toNat ≤ 125) :
    (s.requested a f b c).txBytes 8 = requestFrame (a.setWidth 8) (f.setWidth 8) (b.setWidth 16) (c.setWidth 16) ∧
    (s.requested a f b c).crc = crc16 ((s.requested a f b c).txBytes 6) ∧
    (s.requested a f b c).expLen.toNat = 5 + 2 * (c.setWidth 16).toNat ∧
    ∀ x, 8 ≤ x → (s.requested a f b c).txBuf.read x = s.txBuf.read x := by
  rw [s.requested_built a f b hc]
  refine ⟨State.buildRequest_txBytes _, ?_, State.buildRequest_expLen _ hc, fun _ => State.buildRequest_read _⟩
  rw [State.buildRequest_txBytes6]
  rfl

/-- Settles O13: the register writes, then the BUILD that is accepted or refused by the count. -/
theorem reqBuildsTheRequestOfItsOperands : Obligations.ReqBuildsTheRequestOfItsOperands := by
  intro s a f b c hidle
  refine ⟨fun hc => ?_, fun hc => ?_⟩
  · obtain ⟨hbytes, hcrc, hexp, hhigh⟩ := s.requested_frame a f b hc
    refine ⟨s.requested a f b c, exec_req_idle hidle a f b c, hbytes, hcrc, hexp, hhigh, ?_⟩
    rw [s.requested_built a f b hc]
    rfl
  · rw [exec_req_idle hidle, s.requested_refused a f b hc]
    rfl

/-! ### XFER after REQ -/

theorem State.requested_busy (h : s.busy = false) (a f b c : Word32) : (s.requested a f b c).busy = false := by
  rw [s.requested_writes]
  exact h

/-- An accepted XFER leaves the lines after it at the head of the program. -/
theorem issue_xfer_accepted (h : s.busy = false) (hopen : s.sess = .idle) (hbuilt : s.txLen = 8#4) (ls : List Line) :
    issue (.op .xfer :: ls) s = .next (s.acceptXfer.queue ls) := by
  have hxfer : issueLine (.op .xfer) s = .next s.acceptXfer := exec_xfer_idle h hopen hbuilt
  rw [issue_cons ls h hxfer, issue_busy ls (State.busy_eq_true _ |>.mpr (by simp [State.acceptXfer]))]

/-- A refused XFER, and the WAIT after it, which finds the block quiescent. -/
theorem issue_xfer_wait_refused (h : s.busy = false) (hstate : s.sess ≠ .idle ∨ s.txLen ≠ 8#4) (ls : List Line) :
    issue (.op .xfer :: .op .wait :: ls) s =
      issue ls (s.refuse.logRead (.reg 1#4 (s.refuse.status.setWidth 32))) := by
  have hxfer : issueLine (.op .xfer) s = .next s.refuse := exec_xfer_refused (.inr hstate)
  have hwait : issueLine (.op .wait) s.refuse = .next (s.refuse.logRead (.reg 1#4 (s.refuse.status.setWidth 32))) :=
    execWait_idle (s := s.refuse) h
  rw [issue_cons _ h hxfer, issue_cons (s := s.refuse) _ h hwait]

/-! ### TRANSACT -/

theorem exec_transact_idle (h : s.busy = false) (a f b c : Word32) :
    exec (.transact a f b c) s =
      issue [.op .xfer, .op .wait, .rd 2#4, .rd 1#4, .rd 13#4] (s.requested a f b c) :=
  issue_reqLines h a f b c _

theorem exec_transact_accepted (h : s.busy = false) (hopen : s.sess = .idle) (a f b c : Word32)
    (hbuilt : (s.requested a f b c).txLen = 8#4) :
    exec (.transact a f b c) s =
      .next ((s.requested a f b c).acceptXfer.queue [.op .wait, .rd 2#4, .rd 1#4, .rd 13#4]) := by
  have hsess : (s.requested a f b c).sess = .idle := by
    rw [s.requested_writes]
    exact hopen
  rw [exec_transact_idle h, issue_xfer_accepted (State.requested_busy h a f b c) hsess hbuilt]

/-- The three reads after a refused XFER (R87). -/
theorem issue_three_reads (h : s.busy = false) :
    issue [.rd 2#4, .rd 1#4, .rd 13#4] s = .next { s with
      trace := s.trace ++ [.reg 2#4 (s.result.code.setWidth 32), .reg 1#4 (s.status.setWidth 32),
        .reg 13#4 (s.payLen.setWidth 32)] } := by
  rw [issue_cons _ h (issueLine_rd_idle 2#4 h),
    issue_cons (s := s.logRead _) _ h (issueLine_rd_idle (s := s.logRead _) 1#4 h),
    issue_cons (s := (s.logRead _).logRead _) _ h (issueLine_rd_idle (s := (s.logRead _).logRead _) 13#4 h),
    State.regValue_payLen (s := (s.logRead _).logRead _) h]
  simp only [issue_nil, State.logRead, List.append_assoc, List.singleton_append]
  rfl

theorem exec_transact_refused (h : s.busy = false) (a f b c : Word32)
    (hstate : s.sess ≠ .idle ∨ (s.requested a f b c).txLen ≠ 8#4) :
    exec (.transact a f b c) s = .next { s.requested a f b c with
      cmdErr := true
      trace := s.trace ++ [.reg 1#4 ((s.requested a f b c).refuse.status.setWidth 32),
        .reg 2#4 (s.result.code.setWidth 32), .reg 1#4 ((s.requested a f b c).refuse.status.setWidth 32),
        .reg 13#4 (s.payLen.setWidth 32)] } := by
  have hwrites := s.requested_writes a f b c
  have hb := State.requested_busy h a f b c
  rw [exec_transact_idle h]
  generalize s.requested a f b c = r at *
  have hsess : r.sess = s.sess := (congrArg State.sess hwrites :)
  have htrace : r.trace = s.trace := (congrArg State.trace hwrites :)
  have hresult : r.result = s.result := (congrArg State.result hwrites :)
  have hpay : r.payLen = s.payLen := (congrArg State.payLen hwrites :)
  rw [issue_xfer_wait_refused hb (hsess ▸ hstate), issue_three_reads (s := r.refuse.logRead _) hb, ← htrace, ← hresult,
    ← hpay]
  simp only [State.logRead, List.append_assoc, List.singleton_append]
  rfl

/-- Settles O35: REQ, then XFER accepted and the rest queued, or refused and the reads made at once. -/
theorem transactBuildsAndStartsTheTransfer : Obligations.TransactBuildsAndStartsTheTransfer := by
  intro s a f b c hidle
  have hprog : (s.requested a f b c).prog = s.prog := by rw [s.requested_writes]; rfl
  refine ⟨fun hc hopen => ?_, s.requested a f b c, ?_⟩
  · obtain ⟨hbytes, hcrc, hexp, hhigh⟩ := s.requested_frame a f b hc
    have hbuilt := s.requested_built a f b hc
    refine ⟨_, exec_transact_accepted hidle hopen a f b c (by rw [hbuilt]; rfl), hbytes, hcrc, hexp, hhigh, ?_⟩
    rw [hbuilt]
    rfl
  · by_cases hready : s.sess = .idle ∧ (s.requested a f b c).txLen = 8#4
    · refine ⟨_, exec_req_idle hidle a f b c, exec_transact_accepted hidle hready.1 a f b c hready.2, fun _ _ => ?_,
        fun hnot => absurd hready (not_and_or.mpr hnot)⟩
      rw [← hprog]
      rfl
    · refine ⟨_, exec_req_idle hidle a f b c, exec_transact_refused hidle a f b c (not_and_or.mp hready),
        fun hopen hbuilt => absurd ⟨hopen, hbuilt⟩ hready, fun _ => rfl⟩

/-! ### POLL -/

/-- REQ leaves the host's retry counter. -/
theorem State.requested_retries (s : State) (a f b c : Word32) (n : Nat) :
    State.requested { s with retries := n } a f b c = { s.requested a f b c with retries := n } := by
  unfold State.requested
  split <;> rfl

theorem exec_poll_idle (h : s.busy = false) (a f b c : Word32) (limit : Nat) :
    exec (.poll a f b c limit) s = issue (attemptLines b .registers limit) { s.requested a f b c with retries := 0 } := by
  rw [← s.requested_retries]
  exact issue_reqLines (s := { s with retries := 0 }) h a f b c _

theorem exec_poll_accepted (h : s.busy = false) (hopen : s.sess = .idle) (a f b c : Word32) (limit : Nat)
    (hbuilt : (s.requested a f b c).txLen = 8#4) :
    exec (.poll a f b c limit) s = .next (State.queue
      (State.acceptXfer { s.requested a f b c with retries := 0 })
      [.op .wait, .engine (.pollCheck b .registers limit)]) := by
  have hsess : (s.requested a f b c).sess = .idle := by
    rw [s.requested_writes]
    exact hopen
  rw [exec_poll_idle h]
  exact issue_xfer_accepted (s := { s.requested a f b c with retries := 0 }) (State.requested_busy h a f b c) hsess hbuilt _

theorem issue_engine (h : s.busy = false) (e : EngineStep) (ls : List Line) :
    issue (.engine e :: ls) s = issue ls (s.engineStep e) := issue_cons ls h rfl

theorem step_hostNext_engine (s : State) (e : EngineStep) : step (s.hostNext (.engine e)) = .next (s.engineStep e) := rfl

/-- A refused XFER of POLL: the decision is taken at once, on the state the reads of WAIT leave. -/
theorem exec_poll_refused (h : s.busy = false) (a f b c : Word32) (limit : Nat)
    (hstate : s.sess ≠ .idle ∨ (s.requested a f b c).txLen ≠ 8#4) :
    exec (.poll a f b c limit) s = .next (State.engineStep
      { s.requested a f b c with
        cmdErr := true, retries := 0
        trace := s.trace ++ [.reg 1#4 ((s.requested a f b c).refuse.status.setWidth 32)] }
      (.pollCheck b .registers limit)) := by
  have hwrites := s.requested_writes a f b c
  have hb := State.requested_busy h a f b c
  rw [exec_poll_idle h]
  generalize s.requested a f b c = r at *
  have hsess : r.sess = s.sess := (congrArg State.sess hwrites :)
  have htrace : r.trace = s.trace := (congrArg State.trace hwrites :)
  have hissue := issue_xfer_wait_refused (s := { r with retries := 0 }) hb (hsess ▸ hstate)
    [.engine (.pollCheck b .registers limit)]
  rw [attemptLines, hissue, ← htrace]
  refine issue_engine ?_ _ []
  exact hb

/-- Settles O36: REQ, then XFER accepted and the rest queued, or refused and the decision made at once. -/
theorem pollBuildsAndStartsItsFirstAttempt : Obligations.PollBuildsAndStartsItsFirstAttempt := by
  intro s a f b c limit hidle
  have hprog : (s.requested a f b c).prog = s.prog := by rw [s.requested_writes]; rfl
  refine ⟨fun hc hopen => ?_, s.requested a f b c, ?_⟩
  · obtain ⟨hbytes, hcrc, hexp, hhigh⟩ := s.requested_frame a f b hc
    have hbuilt := s.requested_built a f b hc
    refine ⟨_, exec_poll_accepted hidle hopen a f b c limit (by rw [hbuilt]; rfl), hbytes, hcrc, hexp, hhigh, ?_⟩
    rw [hbuilt]
    rfl
  · by_cases hready : s.sess = .idle ∧ (s.requested a f b c).txLen = 8#4
    · refine ⟨_, exec_req_idle hidle a f b c, exec_poll_accepted hidle hready.1 a f b c limit hready.2, fun _ _ => ?_,
        fun hnot => absurd hready (not_and_or.mpr hnot)⟩
      rw [← hprog]
      rfl
    · exact ⟨_, exec_req_idle hidle a f b c, exec_poll_refused hidle a f b c limit (not_and_or.mp hready),
        fun hopen hbuilt => absurd ⟨hopen, hbuilt⟩ hready, fun _ => ⟨_, step_hostNext_engine _ _, rfl⟩⟩

end Sys2Proof.Machine
end

section
/-! PROOFS. The poll engine (43_host_software R172 to R186): the decision after an attempt, the schedule, and a stop that
ends a blocked read. -/

namespace Sys2Proof.Machine

variable {s : State}

/-! ### The decision of POLL -/

theorem State.accepted_iff (s : State) :
    s.accepted = true ↔ s.result = .ok ∧ s.slvOk = true ∧ s.funOk = true ∧ s.cntOk = true := by
  simp [State.accepted, and_assoc]

theorem State.pollDecision_fatal (start : Word32) (shape : Shape) (left : Nat) (h : s.result = .error .fatal) :
    s.pollDecision start shape left = (s.tell .connectionLost).stopEngine := if_pos h

theorem State.pollDecision_accepted (start : Word32) (shape : Shape) (left : Nat) (h : s.accepted = true) :
    s.pollDecision start shape left =
      s.orLeave (s.succeed start (readings (start.setWidth 16).toNat shape s.payload)) := by
  have hok : s.result ≠ .error .fatal := by
    rw [(s.accepted_iff.mp h).1]
    exact nofun
  exact (if_neg hok).trans (if_pos h)

/-- With no retry left, or a stop requested, an attempt that failed is the item's error. -/
theorem State.pollDecision_failed (start : Word32) (shape : Shape) {left : Nat} (hfatal : s.result ≠ .error .fatal)
    (h : s.accepted = false) (hleft : left = 0 ∨ s.worker.stopping = true) :
    s.pollDecision start shape left = s.orLeave (s.tell (.itemError start s.result)) := by
  rw [State.pollDecision, if_neg hfatal, h, if_neg (by decide), if_pos hleft]

theorem State.pollDecision_retry (start : Word32) (shape : Shape) (left : Nat) (hfatal : s.result ≠ .error .fatal)
    (h : s.accepted = false) (hstop : s.worker.stopping = false) :
    s.pollDecision start shape (left + 1) = State.queue { s with retries := s.retries + 1 }
      (.engine (.pause s.worker.params.backoff) :: attemptLines start shape left) := by
  rw [State.pollDecision, if_neg hfatal, h, if_neg (by decide), if_neg (by simp [hstop]), Nat.add_sub_cancel]

/-- Settles O37: the four cases of the decision, with and without a stop. -/
theorem pollDecisionFollowsTheResult : Obligations.PollDecisionFollowsTheResult := by
  rintro s start shape left values rfl
  refine ⟨fun hfatal => ?_, fun hstop hok => ?_, fun hstop hfatal hnot => ?_, fun hstop hfatal => ?_⟩
  · exact congrArg _ (State.pollDecision_fatal start shape left hfatal)
  · exact congrArg _ ((State.pollDecision_accepted start shape left (s.accepted_iff.mpr hok)).trans
      (State.orLeave_running _ hstop))
  · have hfailed : s.accepted = false := by rwa [← Bool.not_eq_true, State.accepted_iff]
    exact ⟨congrArg _ ((State.pollDecision_failed start shape hfatal hfailed (.inl rfl)).trans
        (State.orLeave_running _ hstop)),
      congrArg _ (State.pollDecision_retry start shape left hfatal hfailed hstop)⟩
  · rw [step_hostNext_engine]
    change Host.Outcome.next (s.pollDecision start shape left) = _
    cases hacc : s.accepted with
    | true =>
      rw [State.pollDecision_accepted start shape left hacc, State.orLeave_stopping _ hstop]
      rfl
    | false =>
      rw [State.pollDecision_failed start shape hfatal hacc (.inr hstop), State.orLeave_stopping _ hstop]
      rfl

/-! ### The schedule -/

/-- An item or a sweep begins unless a stop has been requested (R181). -/
theorem State.engineStep_item (item : PollItem) :
    s.engineStep (.item item) = if s.worker.stopping = true then s.leave else s.startItem item := rfl

theorem State.engineStep_nextSweep :
    s.engineStep .nextSweep = if s.worker.stopping = true then s.leave else s.startSweep := rfl

theorem step_host_end (h : s.prog = []) : step (s.eventNext .host) = .next (s.orLeave s) := by
  rw [step_eventNext, runEvent, hostTurn, h]

/-- With no stop requested a step of the schedule does its own. -/
theorem State.engineStep_running (h : s.worker.stopping = false) (item : PollItem) (ms : Nat) :
    s.engineStep (.item item) = s.startItem item ∧ s.engineStep .nextSweep = s.startSweep ∧
      s.engineStep (.pause ms) = s :=
  ⟨s.engineStep_item item ▸ if_neg (by simp [h]), s.engineStep_nextSweep ▸ if_neg (by simp [h]),
    State.orLeave_running s h⟩

/-- With a stop requested each of them leaves instead. -/
theorem State.engineStep_stopping (h : s.worker.stopping = true) (item : PollItem) (ms : Nat) :
    ∀ e ∈ [EngineStep.item item, .nextSweep, .pause ms], s.engineStep e = s.leave := by
  intro e he
  simp only [List.mem_cons, List.not_mem_nil, or_false] at he
  rcases he with rfl | rfl | rfl
  · rw [s.engineStep_item, if_pos h]
  · rw [s.engineStep_nextSweep, if_pos h]
  · exact State.orLeave_stopping s h

/-- Settles O40: each step of the schedule and the end of the program, with and without a stop; the report and the decision
after OPEN look at no stop. -/
theorem engineRunsItsScheduleUntilStopped : Obligations.EngineRunsItsScheduleUntilStopped := by
  intro s item m ms
  refine ⟨rfl, fun hstop => ?_, rfl, fun hopen => ?_, fun hclosed => ?_, fun hstop hprog => ?_, fun hstop e he => ?_⟩
  · obtain ⟨hitem, hsweep, hpause⟩ := State.engineStep_running hstop item ms
    refine ⟨⟨_, rfl, ?_⟩, ?_, ?_, fun hprog => ?_⟩
    · rw [step_hostNext_engine, hitem]
      rfl
    · rw [step_hostNext_engine, hsweep]
      simp [State.startSweep, State.queue, sweepLines]
    · rw [step_hostNext_engine, hpause]
    · rw [step_host_end hprog, State.orLeave_running s hstop]
  · exact congrArg _ (if_pos hopen)
  · exact congrArg _ (if_neg hclosed)
  · rw [step_host_end hprog, State.orLeave_stopping s hstop]
    rfl
  · rw [step_hostNext_engine, State.engineStep_stopping hstop item ms e he]
    rfl

/-! ### Turns of the host in a script -/

/-- The host's turn in a script. -/
theorem runSteps_host {l : Line} {rest : List Line} {es : List Event} {s t : State} (k : Nat) (hprog : s.prog = l :: rest)
    (h : runLine l (State.scripted { s with prog := rest } es) = .next (t.scripted es)) :
    runSteps (k + 1) (s.scripted (.host :: es)) = runSteps k (t.scripted es) := by
  refine runSteps_scripted_cons k ?_
  have hturn : (s.scripted es).prog = l :: rest := hprog
  rw [runEvent, hostTurn, hturn]
  exact h

/-- A WAIT that finds the block quiescent. -/
def State.waited (s : State) (rest : List Line) : State :=
  { s with prog := rest, trace := s.trace ++ [.reg 1#4 (s.status.setWidth 32)] }

theorem runSteps_wait {rest : List Line} (k : Nat) (es : List Event) (hb : s.busy = false)
    (hprog : s.prog = .op .wait :: rest) :
    runSteps (k + 1) (s.scripted (.host :: es)) = runSteps k ((s.waited rest).scripted es) := by
  refine runSteps_host k hprog ?_
  exact execWait_idle (s := State.scripted { s with prog := rest } es) hb

/-- A write of `TIMEOUT`, performed also while busy (20_memory R56). -/
theorem runSteps_writeTimeout {v : Word32} {rest : List Line} (k : Nat) (es : List Event)
    (hprog : s.prog = .wr 9#4 v :: rest) :
    runSteps (k + 1) (s.scripted (.host :: es)) =
      runSteps k (State.scripted { s with prog := rest, timeout := v } es) := by
  refine runSteps_host k hprog ((runLine_wr v _ (by decide)).trans ?_)
  exact congrArg _ (if_neg fun h => h.2 rfl)

theorem runSteps_close {rest : List Line} (k : Nat) (es : List Event) (hb : s.busy = false)
    (hprog : s.prog = .op .closeSession :: rest) :
    runSteps (k + 1) (s.scripted (.host :: es)) =
      runSteps k (State.scripted (State.freshSession { s with prog := rest, sess := .disconnected }) es) := by
  refine runSteps_host k hprog ?_
  exact exec_closeSession_idle (s := State.scripted { s with prog := rest } es) hb

/-- The turn in which the host decides on an attempt. -/
theorem runSteps_pollCheck {start : Word32} {shape : Shape} {left : Nat} {rest : List Line} {t : State} (k : Nat)
    (es : List Event) (hprog : s.prog = .engine (.pollCheck start shape left) :: rest)
    (h : (State.scripted { s with prog := rest } es).pollDecision start shape left = t.scripted es) :
    runSteps (k + 1) (s.scripted (.host :: es)) = runSteps k (t.scripted es) :=
  runSteps_host k hprog (congrArg _ h)

/-! ### A stop during a blocked read -/

/-- The state after a stop request and the write that shortens `TIMEOUT` (R181). -/
def State.shortened (s : State) : State :=
  { s with worker := { s.worker with stopping := true }, timeout := s.worker.params.stopTimeout }

/-- The state after the tick that reaches the shortened `TIMEOUT` (42_uart_transceiver R146). -/
def State.stopped (s : State) : State := s.shortened.readTimeout

theorem runSteps_stopped {ms : Nat} (k : Nat) (es : List Event) (hp : s.phase = .rx)
    (hlen : s.rxLen.toNat < s.expLen.toNat) (hstop : s.worker.stopping = false)
    (htime : s.worker.params.stopTimeout.toNat ≤ s.timer.getD 0 + ms) :
    runSteps (k + 3) (s.scripted (.stopRequest :: .host :: .tick ms :: es)) = runSteps k (s.stopped.scripted es) := by
  have hask (es : List Event) : runEvent .stopRequest (s.scripted es) = .next (State.scripted { s with
      worker := { s.worker with stopping := true }, prog := .wr 9#4 s.worker.params.stopTimeout :: s.prog } es) :=
    congrArg _ (if_neg (by simpa [State.scripted] using hstop))
  have htick : runEvent (.tick ms) (s.shortened.scripted es) = .next (s.stopped.scripted es) :=
    (runEvent_tick_below (s := s.shortened.scripted es) ms hp hlen).trans (congrArg _ (if_pos htime))
  rw [runSteps_scripted_cons (k + 2) (hask _), runSteps_writeTimeout (k + 1) _ rfl]
  exact runSteps_scripted_cons k htick

/-- The session after the lines of leaving (R181): the block waited for, closed, and `TIMEOUT` restored to `v`. -/
def State.left (s : State) (v : Word32) : State :=
  { State.freshSession { s.waited [] with sess := .disconnected } with timeout := v }

theorem runSteps_left {v : Word32} (k : Nat) (es : List Event) (hb : s.busy = false) (hprog : s.prog = leaveLines v) :
    runSteps (k + 3) (s.scripted (.host :: .host :: .host :: es)) = runSteps k ((s.left v).scripted es) := by
  refine (runSteps_wait (k + 2) _ hb hprog).trans ?_
  exact (runSteps_close (s := s.waited _) (k + 1) _ hb rfl).trans (runSteps_writeTimeout k es rfl)

/-- The decision after a timeout with a stop requested: the item's error, and the host leaves. -/
theorem State.pollDecision_leaves (start : Word32) (shape : Shape) (left : Nat) (hresult : s.result = .error .timeout)
    (hstop : s.worker.stopping = true) :
    s.pollDecision start shape left = (s.tell (.itemError start (.error .timeout))).leave := by
  have hfatal : s.result ≠ .error .fatal := hresult ▸ nofun
  have hfailed : s.accepted = false := by simp [State.accepted, hresult]
  rw [State.pollDecision_failed start shape hfatal hfailed (.inr hstop), State.orLeave_stopping _ hstop, hresult]

/-- Settles O41: the read ends, and the host's five turns are WAIT, the decision that leaves, WAIT, CLOSE and the restoring
of `TIMEOUT`. -/
theorem stopEndsABlockedRead : Obligations.StopEndsABlockedRead := by
  intro s start shape left ms rest hp hlen hstop htime hprog
  have hdecide := runSteps_pollCheck (s := s.stopped.waited _) (rest := rest)
    (t := ((s.stopped.waited rest).tell (.itemError start (.error .timeout))).leave) 3 [.host, .host, .host] rfl
    (State.pollDecision_leaves start shape left rfl rfl)
  exact ⟨_, (runSteps_stopped 5 _ hp hlen hstop htime).trans ((runSteps_wait (s := s.stopped) 4 _ rfl hprog).trans
    (hdecide.trans (runSteps_left 0 [] rfl rfl))), rfl, rfl, rfl, rfl, rfl, rfl, rfl, rfl⟩

end Sys2Proof.Machine
end

section
/-! PROOFS. The attempts of POLL (43_host_software R174, R175, R186): a silent attempt is one retry and leaves the block
as it was for the next; the attempts end with the first answer that is accepted, or with the last retry. -/

namespace Sys2Proof.Machine

variable {s : State}

/-! ### A silent attempt -/

/-- An attempt can start and, unanswered for `ms` milliseconds, times out; no stop has been requested. -/
structure State.Polling (s : State) (ms : Nat) : Prop where
  ready : s.Ready
  expects : 0 < s.expLen.toNat
  fits : s.expLen.toNat ≤ 256
  patience : s.timeout.toNat ≤ ms
  running : s.worker.stopping = false

/-- The state after an attempt that nothing answered, waited for. -/
def State.silent (s : State) : State := (s.answered []).readTimeout.waited s.prog

/-- The state in which the next attempt starts. -/
def State.retry (s : State) : State := { s.silent with retries := s.retries + 1 }

theorem State.Polling.retry {ms : Nat} (h : s.Polling ms) : s.retry.Polling ms where
  ready := ⟨rfl, rfl, h.ready.built⟩
  expects := h.expects
  fits := h.fits
  patience := h.patience
  running := h.running

/-- What no attempt changes is as before after any number of them. -/
theorem State.retry_iterate_kept {α : Type} (f : State → α) (hf : ∀ s, f s.retry = f s) (n : Nat) (s : State) :
    f (State.retry^[n] s) = f s := by
  induction n generalizing s with
  | zero => rfl
  | succ n ih => rw [Function.iterate_succ_apply, ih, hf]

theorem State.retry_iterate_retries (n : Nat) (s : State) : (State.retry^[n] s).retries = s.retries + n := by
  induction n generalizing s with
  | zero => rfl
  | succ n ih =>
    rw [Function.iterate_succ_apply, ih, show s.retry.retries = s.retries + 1 from rfl]
    omega

theorem State.Polling.iterate {ms : Nat} (h : s.Polling ms) (n : Nat) : (State.retry^[n] s).Polling ms := by
  induction n generalizing s with
  | zero => exact h
  | succ n ih => exact ih h.retry

/-- The transfer, its timeout and the host's WAIT, up to the decision. -/
theorem runSteps_silent {ms : Nat} (h : s.Polling ms) (start : Word32) (shape : Shape) (left k : Nat) (es : List Event) :
    runSteps (k + 12) ((s.queue (attemptLines start shape left)).scripted
        (.host :: (sendScript ++ .tick ms :: .host :: es))) =
      runSteps k ((s.silent.queue [.engine (.pollCheck start shape left)]).scripted es) := by
  let w := s.queue [.op .wait, .engine (.pollCheck start shape left)]
  have hready : w.Ready := ⟨h.ready.phase, h.ready.session, h.ready.built⟩
  have hsent := runSteps_answered hready (bytes := []) (Nat.zero_le _) h.fits (k + 2) (.tick ms :: .host :: es)
  have htick := runEvent_tick_answered (s := w) (bytes := []) h.expects h.fits h.patience (.host :: es)
  rw [List.length_nil, Nat.zero_add, List.map_nil, List.append_nil] at hsent
  exact hsent.trans ((runSteps_scripted_cons (k + 1) htick).trans
    (runSteps_wait (s := (w.answered []).readTimeout) k es rfl rfl))

/-- A silent attempt with a retry left (R175, R186): the retry is counted, and the next attempt starts after the
backoff. -/
theorem runSteps_retry {ms : Nat} (h : s.Polling ms) (start : Word32) (shape : Shape) (left k : Nat) (es : List Event) :
    runSteps (k + 14) ((s.queue (attemptLines start shape (left + 1))).scripted (silentAttempt ms ++ es)) =
      runSteps k ((s.retry.queue (attemptLines start shape left)).scripted es) := by
  let paused := s.retry.queue (.engine (.pause s.worker.params.backoff) :: attemptLines start shape left)
  have hdecide : (s.silent.scripted (.host :: es)).pollDecision start shape (left + 1) = paused.scripted (.host :: es) :=
    State.pollDecision_retry start shape left nofun rfl h.running
  have hpause : runSteps (k + 1) (paused.scripted (.host :: es)) =
      runSteps k ((s.retry.queue (attemptLines start shape left)).scripted es) :=
    runSteps_host k rfl (congrArg _ (State.orLeave_running (s := (s.retry.queue _).scripted es) _ h.running))
  exact (runSteps_silent h start shape (left + 1) (k + 2) (.host :: .host :: es)).trans
    ((runSteps_pollCheck (s := s.silent.queue _) (t := paused) (k + 1) (.host :: es) rfl hdecide).trans hpause)

theorem runSteps_retries {ms : Nat} (h : s.Polling ms) (start : Word32) (shape : Shape) (left n k : Nat)
    (es : List Event) :
    runSteps (14 * n + k) ((s.queue (attemptLines start shape (left + n))).scripted
        ((List.replicate n (silentAttempt ms)).flatten ++ es)) =
      runSteps k (((State.retry^[n] s).queue (attemptLines start shape left)).scripted es) := by
  induction n generalizing s with
  | zero => rw [Nat.mul_zero, Nat.zero_add]; rfl
  | succ n ih =>
    rw [List.replicate_succ, List.flatten_cons, List.append_assoc, show 14 * (n + 1) + k = 14 * n + k + 14 by omega,
      show left + (n + 1) = left + n + 1 from rfl, runSteps_retry h, ih h.retry, Function.iterate_succ_apply]

/-! ### The last attempt fails -/

/-- The last attempt has no retry left, and its failure is the item's error. -/
theorem runSteps_givesUp {ms : Nat} (h : s.Polling ms) (start : Word32) (shape : Shape) (es : List Event) :
    runSteps 13 ((s.queue (attemptLines start shape 0)).scripted
        (.host :: (sendScript ++ .tick ms :: .host :: .host :: es))) =
      some ((s.silent.tell (.itemError start (.error .timeout))).scripted es) := by
  have hdecide : (s.silent.scripted es).pollDecision start shape 0 =
      (s.silent.tell (.itemError start (.error .timeout))).scripted es :=
    (State.pollDecision_failed (s := s.silent.scripted es) start shape nofun rfl (.inl rfl)).trans
      (State.orLeave_running _ h.running)
  exact (runSteps_silent h start shape 0 1 (.host :: es)).trans
    (runSteps_pollCheck (s := s.silent.queue _) (t := s.silent.tell _) 0 es rfl hdecide)

/-- Settles O39: `limit` retries, and then the last attempt. -/
theorem pollGivesUpAfterTheRetryLimit : Obligations.PollGivesUpAfterTheRetryLimit := by
  intro s start shape limit ms hp hs hb hpos hfit htime hstop
  have h : State.Polling { s with retries := 0 } ms := ⟨⟨hp, hs, hb⟩, hpos, hfit, htime, hstop⟩
  have hretries := State.retry_iterate_retries limit { s with retries := 0 }
  have hkept := State.retry_iterate_kept (fun t => (t.hostEvents, t.prog, t.env)) (fun _ => rfl) limit
    { s with retries := 0 }
  have hrun := runSteps_retries h start shape 0 limit 13 (.host :: (sendScript ++ [.tick ms, .host, .host]))
  have hlast := h.iterate limit
  generalize State.retry^[limit] { s with retries := 0 } = t at hretries hkept hrun hlast
  simp only [Prod.mk.injEq] at hkept
  obtain ⟨hevents, hprog, henv⟩ := hkept
  rw [Nat.zero_add, runSteps_givesUp hlast] at hrun
  exact ⟨_, hrun, congrArg (· ++ _) hevents, hretries.trans (Nat.zero_add limit), hprog, henv, rfl, rfl, rfl⟩

/-! ### The answer that is accepted -/

/-- The state after a full answer and the WAIT for it, with the verdict of `p`. -/
def State.judged (s p : State) (bytes : List Byte) : State :=
  State.waited { (s.answered bytes).endRead.ended with
    result := p.result, crc := p.crc, payLen := p.payLen, slvOk := p.slvOk, funOk := p.funOk, cntOk := p.cntOk } s.prog

/-- What the verdict on an answer depends on. -/
def State.compared (s : State) : Memory × Memory × BitVec 4 × Word16 := (s.rxBuf, s.txBuf, s.txLen, s.crc)

/-- The transfer, the answer, its validation and the host's WAIT, up to the decision. -/
theorem runSteps_judged {ms : Nat} {u : State} (h : s.Polling ms) {bytes : List Byte}
    (hlen : bytes.length = s.expLen.toNat) (hu : u.phase = .idle) (hsame : s.compared = u.compared) (start : Word32)
    (shape : Shape) (left k : Nat) (es : List Event) :
    runSteps (bytes.length + k + 13) ((s.queue (attemptLines start shape left)).scripted
        (.host :: (sendScript ++ bytes.map charEvent ++ .tick 0 :: .tick 0 :: .host :: es))) =
      runSteps k (((s.judged (u.parsed bytes) bytes).queue [.engine (.pollCheck start shape left)]).scripted es) := by
  let w := s.queue [.op .wait, .engine (.pollCheck start shape left)]
  have hready : w.Ready := ⟨h.ready.phase, h.ready.session, h.ready.built⟩
  have hfull : (w.answered bytes).rxLen = w.expLen :=
    BitVec.eq_of_toNat_eq ((rxLen_ofNat_toNat (hlen ▸ h.fits)).trans hlen)
  simp only [State.compared, Prod.mk.injEq] at hsame
  obtain ⟨hrx, htx, hbuilt, hcrc⟩ := hsame
  have hverdict := State.validate_congr (s := u.loaded bytes) (t := (w.answered bytes).endRead.ended) hu rfl
    (congrArg (·.writeList 0 bytes) hrx) rfl htx hbuilt hcrc
  rw [← State.checkFrame_eq_validate] at hverdict
  have hsent := runSteps_answered hready hlen.le h.fits (k + 3) (.tick 0 :: .tick 0 :: .host :: es)
  have hcheck := runSteps_checked (u := w.answered bytes) rfl hfull (k + 1) (.host :: es)
  rw [hverdict] at hcheck
  exact hsent.trans (hcheck.trans (runSteps_wait k es rfl rfl))

/-- The payload of the answer is the one PARSEBYTES finds. -/
theorem State.judged_payload {u : State} {bytes : List Byte} (h : s.rxBuf = u.rxBuf) :
    (s.judged (u.parsed bytes) bytes).payload = (u.parsed bytes).payload := by
  have hbuf : (s.judged (u.parsed bytes) bytes).rxBuf = (u.parsed bytes).rxBuf := by
    rw [State.parsed_rxBuf, ← h]
    rfl
  refine List.map_congr_left fun i _ => ?_
  rw [State.rxByte, State.rxByte, hbuf]

/-- An answer that is accepted is the item's value (R174, R186). -/
theorem runSteps_succeeds {ms : Nat} {u : State} (h : s.Polling ms) {bytes : List Byte}
    (hlen : bytes.length = s.expLen.toNat) (hu : u.phase = .idle) (hsame : s.compared = u.compared)
    (haccepted : (u.parsed bytes).accepted = true) (start : Word32) (shape : Shape) (left : Nat) (es : List Event) :
    runSteps (bytes.length + 14) ((s.queue (attemptLines start shape left)).scripted
        (.host :: (sendScript ++ bytes.map charEvent ++ .tick 0 :: .tick 0 :: .host :: .host :: es))) =
      some (((s.judged (u.parsed bytes) bytes).succeed start
        (readings (start.setWidth 16).toNat shape (u.parsed bytes).payload)).scripted es) := by
  have hpayload := State.judged_payload (s := s) (u := u) (bytes := bytes) (congrArg Prod.fst hsame)
  have hdecide : ((s.judged (u.parsed bytes) bytes).scripted es).pollDecision start shape left =
      ((s.judged (u.parsed bytes) bytes).succeed start
        (readings (start.setWidth 16).toNat shape (u.parsed bytes).payload)).scripted es := by
    rw [← hpayload]
    exact (State.pollDecision_accepted (s := (s.judged _ bytes).scripted es) start shape left haccepted).trans
      (State.orLeave_running _ h.running)
  exact (runSteps_judged h hlen hu hsame start shape left 1 (.host :: es)).trans
    (runSteps_pollCheck (s := (s.judged _ bytes).queue _) (t := (s.judged _ bytes).succeed _ _) 0 es rfl hdecide)

/-- Settles O38: after the silent attempts the block stands as at the start, so the answer is judged as PARSEBYTES judges
it there. -/
theorem pollRetriesUntilTheAnswerIsAccepted : Obligations.PollRetriesUntilTheAnswerIsAccepted := by
  intro s p bytes start shape n limit ms hp hs hb hpos hfit hlen htime hn hstop hparse haccepted
  obtain ⟨left, rfl⟩ := Nat.exists_eq_add_of_le' hn
  obtain rfl : s.parsed bytes = p := by
    rw [exec_parsebytes_idle (s.busy_eq_false.mpr hp) (hlen ▸ hfit)] at hparse
    exact Host.Outcome.next.inj hparse
  have h : State.Polling { s with retries := 0 } ms := ⟨⟨hp, hs, hb⟩, hpos, hfit, htime, hstop⟩
  have hretries := State.retry_iterate_retries n { s with retries := 0 }
  have hkept := State.retry_iterate_kept (fun t => (t.compared, t.expLen, t.hostEvents, t.prog, t.env)) (fun _ => rfl) n
    { s with retries := 0 }
  have hrun := runSteps_retries h start shape left n (bytes.length + 14) (answeredAttempt bytes)
  have hlast := h.iterate n
  generalize State.retry^[n] { s with retries := 0 } = t at hretries hkept hrun hlast
  simp only [Prod.mk.injEq] at hkept
  obtain ⟨hsame, hexp, hevents, hprog, henv⟩ := hkept
  exact ⟨_, hrun.trans (runSteps_succeeds hlast (hlen.trans (congrArg BitVec.toNat hexp).symm) hp hsame haccepted
      start shape left []), congrArg (· ++ _) hevents, hretries.trans (Nat.zero_add n), rfl, hprog, henv, rfl, rfl,
    ((s.parsed bytes).accepted_iff.mp haccepted).1⟩

end Sys2Proof.Machine
end

section
/-! PROOFS. The register catalog (43_host_software R160 to R171): its addresses and index ranges, the severity of an alarm,
and what the startup check of R170 assures. -/

namespace Sys2Proof.Machine

/-! ### Addresses -/

/-- R160 within the index ranges. -/
theorem familyAddress_of_range {f : RegisterFamily} {m c : Nat} (hm : 1 ≤ m) (hm' : m ≤ outerCount f.outer) (hc : 1 ≤ c)
    (hc' : c ≤ innerCount f.inner) :
    familyAddress f m c = some (f.base + (m - 1) * f.outerStride + (c - 1) * f.innerStep) :=
  if_pos ⟨hm, hm', hc, hc'⟩

/-- A family of one value for each module: the address is in the module index alone. -/
theorem familyAddress_single {f : RegisterFamily} {m : Nat} (hinner : f.inner = .single) (hm : 1 ≤ m)
    (hm' : m ≤ outerCount f.outer) : familyAddress f m 1 = some (f.base + (m - 1) * f.outerStride) := by
  rw [familyAddress_of_range hm hm' (le_refl 1) (hinner ▸ le_refl 1), Nat.sub_self, Nat.zero_mul, Nat.add_zero]

theorem innerCount_le (i : InnerIndex) : innerCount i ≤ 15 := by
  cases i <;> decide

/-- R161: an index outside both ranges of a module family has no address. -/
theorem familyAddress_of_module {f : RegisterFamily} (houter : f.outer = .module) {m c : Nat}
    (h : m = 0 ∨ 32 < m ∨ c = 0 ∨ 15 < c) : familyAddress f m c = none := by
  have hinner := innerCount_le f.inner
  refine if_neg fun hrange => ?_
  rw [houter, show outerCount .module = 32 from rfl] at hrange
  omega

/-! ### Severity -/

theorem severityOf_boolean {e : AlarmEntry} (h : e.name ≠ .lithiumAbnormal) :
    severityOf e = if e.rawValue ≠ 0 then .fault else .normal := by
  obtain ⟨name, address, raw⟩ := e
  cases name with
  | lithiumAbnormal => exact absurd rfl h
  | ofModule n => simp [severityOf, severityKind, severityBy, alarmIsFault]
  | batteryMissing => simp [severityOf, severityKind, severityBy, alarmIsFault]

theorem severityOf_lithium {e : AlarmEntry} (h : e.name = .lithiumAbnormal) :
    severityOf e = lithiumSeverity e.rawValue := by
  rw [severityOf, h]
  rfl

theorem lithiumSeverity_eq_normal_iff (n : Nat) : lithiumSeverity n = .normal ↔ n = 0 := by
  unfold lithiumSeverity
  split <;> simp_all

/-- R169: 0 is normal, and nothing else is. -/
theorem severityOf_eq_normal_iff (e : AlarmEntry) : severityOf e = .normal ↔ e.rawValue = 0 := by
  by_cases h : e.name = .lithiumAbnormal
  · rw [severityOf_lithium h, lithiumSeverity_eq_normal_iff]
  · rw [severityOf_boolean h]
    simp

/-- Settles O59: each family's address is the affine one of R160, and the rest is the families' own tables. -/
theorem catalogHoldsAddressesTypesAndScales : Obligations.CatalogHoldsAddressesTypesAndScales := by
  intro b alarms m c stride
  refine ⟨fun hm hm' hc hc' => ?_, rfl, fun f hf h => ?_, rfl, rfl, ?_, rfl, fun _ => ⟨rfl, rfl⟩, fun _ _ _ => rfl,
    fun e => ⟨severityOf_eq_normal_iff e, fun h => ?_, fun h hraw => ?_⟩⟩
  · have cell (base : Nat) (key : FieldKey) (type : ValueType) :
        familyAddress (cellFamily base key type .tenth) m c = some (base + (m - 1) * 0x40 + (c - 1)) := by
      refine (familyAddress_of_range (f := cellFamily base key type .tenth) hm hm' hc hc').trans ?_
      exact congrArg (fun k => some (base + (m - 1) * 0x40 + k)) (Nat.mul_one _)
    have offset (base k : Nat) (key : FieldKey) (type : ValueType) (scale : Scale) :
        familyAddress (moduleFamily (base + k) 0x40 key type scale) m 1 = some (base + (m - 1) * 0x40 + k) := by
      refine (familyAddress_single (f := moduleFamily (base + k) 0x40 key type scale) rfl hm hm').trans ?_
      exact congrArg some (Nat.add_right_comm _ _ _)
    exact ⟨familyAddress_single rfl hm hm', offset _ 2 _ _ _, offset _ 8 _ _ _, familyAddress_single rfl hm hm',
      cell _ _ _, cell _ _ _, familyAddress_single rfl hm hm', familyAddress_single rfl hm hm'⟩
  · refine familyAddress_of_module ?_ h
    simp only [List.mem_cons, List.not_mem_nil, or_false] at hf
    rcases hf with rfl | rfl | rfl | rfl | rfl | rfl | rfl | rfl <;> rfl
  · simp [timeFamily]
  · rw [severityOf_lithium h]
    refine ⟨fun hraw => ?_, fun hraw => ?_, fun hraw => ?_⟩ <;> rw [hraw] <;> rfl
  · rw [severityOf_boolean h, if_pos hraw]

/-! ### The startup check -/

/-- The check of one family: its registers are sixteen bits and not taken. -/
theorem checkRegisters_ok {taken rs : List Nat} (h : checkRegisters taken rs = .ok ()) :
    ∀ a ∈ rs, a ≤ 0xFFFF ∧ a ∉ taken := by
  induction rs with
  | nil => simp
  | cons a rest ih =>
    rw [checkRegisters] at h
    split_ifs at h with hrange htaken
    exact List.forall_mem_cons.mpr ⟨⟨Nat.not_lt.mp hrange, htaken⟩, ih h⟩

/-- What the check of a list of families against the registers already taken assures. -/
structure CatalogChecked (taken : List Nat) (fs : List RegisterFamily) : Prop where
  range : ∀ f ∈ fs, ∀ a ∈ familyRegisters f, a ≤ 0xFFFF
  fresh : ∀ f ∈ fs, ∀ a ∈ familyRegisters f, a ∉ taken
  apart : fs.Pairwise fun f g => ∀ a, a ∈ familyRegisters f → a ∉ familyRegisters g

theorem checkCatalog_ok {taken : List Nat} {fs : List RegisterFamily} (h : checkCatalog taken fs = .ok ()) :
    CatalogChecked taken fs := by
  induction fs generalizing taken with
  | nil => exact ⟨nofun, nofun, .nil⟩
  | cons f rest ih =>
    rw [checkCatalog] at h
    cases hf : checkRegisters taken (familyRegisters f) with
    | error e => rw [hf] at h; cases h
    | ok u =>
      rw [hf] at h
      have hhead := checkRegisters_ok hf
      obtain ⟨hrange, hfresh, hapart⟩ := ih h
      have hfresh' : ∀ g ∈ rest, ∀ a ∈ familyRegisters g, a ∉ taken ∧ a ∉ familyRegisters f := fun g hg a ha => by
        simpa using hfresh g hg a ha
      exact ⟨List.forall_mem_cons.mpr ⟨fun a ha => (hhead a ha).1, hrange⟩,
        List.forall_mem_cons.mpr ⟨fun a ha => (hhead a ha).2, fun g hg a ha => (hfresh' g hg a ha).1⟩,
        .cons (fun g hg a ha hg' => (hfresh' g hg a hg').2 ha) hapart⟩

theorem alarmsWellFormed_iff (v : DeviceVariant) :
    alarmsWellFormed v = true ↔ v.alarms.length ≤ 13 ∧ (v.alarms.map AlarmSpot.name).Nodup := by
  simp [alarmsWellFormed]

/-- The catalog is built exactly when the alarms are well formed and the families pass the check (R167, R170). -/
theorem catalog_eq_ok_iff (v : DeviceVariant) (fs : List RegisterFamily) :
    catalog v = .ok fs ↔ alarmsWellFormed v = true ∧ checkCatalog [] (families v) = .ok () ∧ families v = fs := by
  unfold catalog
  split_ifs with halarms
  · cases hcheck : checkCatalog [] (families v) with
    | ok u => simp [Except.map, halarms]
    | error e => simp [Except.map]
  · simp [halarms]

/-- Settles O60. -/
theorem checkedCatalogHasNoOverlap : Obligations.CheckedCatalogHasNoOverlap := by
  refine ⟨fun fs hfs => ?_, fun v fs => ?_, fun s v p schedule => ?_⟩
  · obtain ⟨hrange, _, hapart⟩ := checkCatalog_ok hfs
    exact ⟨hrange, hapart⟩
  · rw [catalog_eq_ok_iff, alarmsWellFormed_iff]
    constructor
    · rintro ⟨⟨hlen, hnodup⟩, hcheck, rfl⟩
      exact ⟨rfl, hcheck, hlen, hnodup⟩
    · rintro ⟨rfl, hcheck, hlen, hnodup⟩
      exact ⟨⟨hlen, hnodup⟩, hcheck, rfl⟩
  · rw [State.startEngine]
    cases catalog v with
    | ok fs => exact iff_of_true ⟨fs, rfl⟩ rfl
    | error e => exact iff_of_false (by rintro ⟨fs, h⟩; cases h) nofun

end Sys2Proof.Machine
end

section
/-! PROOFS. Fair runs (42_uart_transceiver R148): what is left of an operation never grows, and a turn of the sequencer makes
it less unless the receiver waits for bytes; there the timeout step is what fairness grants. -/

namespace Sys2Proof.Machine

variable {s t : State}

/-! ### What is left of an operation -/

/-- A bound on the sequencer's steps to the end of an operation, the waiting of the receiver counted as one. -/
def State.remaining (s : State) : Nat :=
  match s.phase with
  | .idle => 0
  | .opening | .check => 1
  | .rx => if s.receiving = true then 3 else 2
  | .tx => 12 - s.txIdx.toNat

theorem State.remaining_idle (h : s.phase = .idle) : s.remaining = 0 := by
  simp [State.remaining, h]

theorem State.remaining_opening (h : s.phase = .opening) : s.remaining = 1 := by
  simp [State.remaining, h]

theorem State.remaining_check (h : s.phase = .check) : s.remaining = 1 := by
  simp [State.remaining, h]

theorem State.remaining_rx (h : s.phase = .rx) : s.remaining = if s.receiving = true then 3 else 2 := by
  simp [State.remaining, h]

theorem State.remaining_tx (h : s.phase = .tx) : s.remaining = 12 - s.txIdx.toNat := by
  simp [State.remaining, h]

theorem State.remaining_rx_bounds (h : s.phase = .rx) : 2 ≤ s.remaining ∧ s.remaining ≤ 3 := by
  rw [State.remaining_rx h]
  split <;> decide

/-- The counters are within the bounds the invariant gives (10_state R33, R38). -/
def State.InBounds (s : State) : Prop :=
  (s.phase = .tx → s.txIdx.toNat ≤ 8) ∧ (s.phase = .rx → s.rxLen.toNat ≤ s.expLen.toNat)

theorem State.Inv.inBounds (h : s.Inv) : s.InBounds := ⟨fun hp => (h.sending hp).1, h.receiving⟩

/-- The receiver waits for bytes exactly where three steps are left. -/
theorem State.receiving_iff_remaining (h : s.InBounds) : s.receiving = true ↔ s.remaining = 3 := by
  cases hp : s.phase with
  | rx =>
    rw [State.remaining_rx hp]
    split_ifs with hr <;> simp [hr]
  | tx =>
    have hidx := h.1 hp
    rw [State.remaining_tx hp]
    exact iff_of_false (by simp [State.receiving, hp]) (by omega)
  | _ => simp [State.remaining, State.receiving, hp]

/-! ### A turn of the sequencer -/

/-- Each small step brings the operation nearer to its end; none is enabled only where the receiver waits. -/
theorem remaining_lt_of_sequencerEffect (hb : s.busy = true) (hin : s.InBounds) (h : SequencerEffect s t) :
    t.remaining < s.remaining ∨ (t = s ∧ s.receiving = true) := by
  cases h with
  | stay hstay =>
    rcases hstay with hp | ⟨hp, hidx⟩ | ⟨hp, hlen⟩
    · simp [State.busy, hp] at hb
    · have := hin.1 hp
      omega
    · have := hin.2 hp
      exact .inr ⟨rfl, s.receiving_eq_true.mpr ⟨hp, by omega⟩⟩
  | openSucceeds hp =>
    left
    rw [State.remaining_opening hp, State.remaining_idle (s := s.openSucceeds) rfl]
    decide
  | openFails hp =>
    left
    rw [State.remaining_opening hp, State.remaining_idle (s := s.openFails) rfl]
    decide
  | send hp hidx =>
    left
    rw [State.remaining_tx hp, State.remaining_tx (s := s.sendByte) hp]
    have hnext : s.sendByte.txIdx.toNat = s.txIdx.toNat + 1 := by
      change (s.txIdx + 1#4).toNat = s.txIdx.toNat + 1
      rw [BitVec.toNat_add, BitVec.toNat_ofNat]
      omega
    omega
  | endWrite hp hidx =>
    left
    have hrx := State.remaining_rx_bounds (s := s.endWrite) rfl
    rw [State.remaining_tx hp]
    omega
  | fatalTx hp =>
    left
    have hidx := hin.1 hp
    rw [State.remaining_tx hp, State.remaining_idle (s := s.fatalTx) rfl]
    omega
  | endRead hp =>
    left
    have hrx := State.remaining_rx_bounds hp
    rw [State.remaining_check (s := s.endRead) rfl]
    omega
  | readTimeout hp =>
    left
    have hrx := State.remaining_rx_bounds hp
    rw [State.remaining_idle (s := s.readTimeout) rfl]
    omega
  | fatalRx hp =>
    left
    have hrx := State.remaining_rx_bounds hp
    rw [State.remaining_idle (s := s.fatalRx) rfl]
    omega
  | check hp =>
    left
    rw [State.remaining_check hp, State.remaining_idle (s := s.checkFrame) rfl]
    decide

/-- A step the environment gives the sequencer. -/
theorem remaining_lt_of_sequencerTurn {e : Event} (hturn : isSequencerTurn e = true) (hb : s.busy = true)
    (hin : s.InBounds) (h : runEvent e s = .next t) : t.remaining < s.remaining ∨ s.receiving = true := by
  cases e with
  | tick ms =>
    have hframe := s.advanceTimer_writes ms
    cases h
    have hstep := remaining_lt_of_sequencerEffect (s := s.advanceTimer ms) (by rw [hframe]; exact hb)
      (by rw [hframe]; exact hin) (sequencerStep_cases _ true)
    rw [show (s.advanceTimer ms).remaining = s.remaining from (congrArg State.remaining hframe :),
      show (s.advanceTimer ms).receiving = s.receiving from (congrArg State.receiving hframe :)] at hstep
    exact hstep.imp_right And.right
  | linkDown =>
    cases h
    exact (remaining_lt_of_sequencerEffect hb hin (sequencerStep_cases s false)).imp_right And.right
  | _ => cases hturn

/-! ### Any answer -/

/-- Traffic on the line brings bytes nearer to `EXPLEN` or the write to its end. -/
theorem remaining_le_of_wireEffect (h : WireEffect s t) : t.remaining ≤ s.remaining := by
  have received (bytes : List Byte) : (s.receiveBytes bytes).remaining ≤ s.remaining := by
    cases hr : s.receiving with
    | true =>
      have hp := (s.receiving_eq_true.mp hr).1
      rw [State.remaining_rx hp, if_pos hr]
      refine (State.remaining_rx_bounds ?_).2
      rw [s.receiveBytes_writes bytes]
      exact hp
    | false => rw [State.receiveBytes_off bytes hr]
  cases h with
  | ignored => exact le_refl _
  | received bytes => exact received bytes
  | badStop b => exact received [b]
  | sent frame habout =>
    obtain ⟨hp, hidx, -⟩ := (s.aboutToSend_eq_true frame).mp habout
    have hrx := State.remaining_rx_bounds (s := (s.sendBytes 8).endWrite) rfl
    rw [State.remaining_tx hp, hidx]
    exact hrx.2.trans (by decide)

theorem remaining_le_of_event {e : Event} (hb : s.busy = true) (hin : s.InBounds) (h : EventEffect s e t) :
    t.remaining ≤ s.remaining := by
  cases h with
  | line l rest _ _ h =>
    rcases runLine_busy (s := { s with prog := rest }) hb h with ht | ht | ⟨v, ht⟩
    · exact (congrArg State.remaining ht :).le
    · exact (congrArg State.remaining ht :).le
    · exact (congrArg State.remaining ht :).le
  | own _ _ ht => exact (congrArg State.remaining ht :).le
  | sequencer _ u _ _ hu h =>
    have hsame : u.remaining = s.remaining := (congrArg State.remaining hu :)
    rcases remaining_lt_of_sequencerEffect (by rw [hu]; exact hb) (by rw [hu]; exact hin) h with hlt | ⟨rfl, -⟩
    · exact hsame ▸ hlt.le
    · exact hsame.le
  | wire _ _ h => exact remaining_le_of_wireEffect h
  | reset => exact (State.remaining_idle (s := s.resetBlock) rfl).trans_le (Nat.zero_le _)

/-! ### Steps -/

/-- A step is an answer to a state in which the block is the same. -/
theorem step_eq_runEvent_inv (h : s.Inv) :
    ∃ u, u = s.withOwn u ∧ u.Inv ∧ step s = runEvent (nextEvent s) u := by
  obtain ⟨u, hu, -, hrun⟩ := step_eq_runEvent s
  exact ⟨u, hu, .of_withFree h (by rw [hu]; rfl), hrun⟩

theorem remaining_le_of_step (h : s.Inv) (hb : s.busy = true) (hstep : step s = .next t) :
    t.remaining ≤ s.remaining := by
  obtain ⟨u, hu, hinv, hrun⟩ := step_eq_runEvent_inv h
  have hle := remaining_le_of_event (by rw [hu]; exact hb) hinv.inBounds (runEvent_cases (hrun.symm.trans hstep))
  exact hle.trans_eq (congrArg State.remaining hu :)

theorem remaining_lt_of_step (h : s.Inv) (hb : s.busy = true) (hturn : isSequencerTurn (nextEvent s) = true)
    (hwait : s.receiving = false) (hstep : step s = .next t) : t.remaining < s.remaining := by
  obtain ⟨u, hu, hinv, hrun⟩ := step_eq_runEvent_inv h
  have hsame : u.remaining = s.remaining := (congrArg State.remaining hu :)
  have hoff : u.receiving = false := (congrArg State.receiving hu :).trans hwait
  rcases remaining_lt_of_sequencerTurn hturn (by rw [hu]; exact hb) hinv.inBounds (hrun.symm.trans hstep) with hlt | hr
  · exact hsame ▸ hlt
  · cases hoff.symm.trans hr

/-- The timeout step ends the operation (R141). -/
theorem step_timeout {ms : Nat} (hr : s.receiving = true) (hnext : nextEvent s = .tick ms)
    (htime : s.timeout.toNat ≤ s.timer.getD 0 + ms) (hstep : step s = .next t) : t.busy = false := by
  obtain ⟨u, hu, -, hrun⟩ := step_eq_runEvent s
  obtain ⟨hp, hlen⟩ := u.receiving_eq_true.mp ((congrArg State.receiving hu :).trans hr)
  have htime' : u.timeout.toNat ≤ u.timer.getD 0 + ms := by rw [hu]; exact htime
  rw [hrun, hnext, runEvent_tick_below ms hp hlen, if_pos htime'] at hstep
  cases hstep
  rfl

/-! ### Fair runs -/

theorem FairRun.inv {f : Nat → State} (hf : FairRun f) (h : (f 0).Inv) (n : Nat) : (f n).Inv := by
  induction n with
  | zero => exact h
  | succ n ih => exact stepKeepsTheInvariant _ _ ih (hf.run n)

/-- While the block stays busy, what is left stops falling at some point. -/
theorem FairRun.remaining_settles {f : Nat → State} (hf : FairRun f) (h : (f 0).Inv) {n : Nat}
    (hbusy : ∀ m, n ≤ m → (f m).busy = true) : ∃ k, n ≤ k ∧ ∀ m, k ≤ m → (f m).remaining = (f k).remaining := by
  have hfall : Antitone fun i => (f (n + i)).remaining := antitone_nat_of_succ_le fun i =>
    remaining_le_of_step (hf.inv h (n + i)) (hbusy _ (Nat.le_add_right n i)) (hf.run (n + i))
  refine ⟨n + Function.argmin fun i => (f (n + i)).remaining, Nat.le_add_right n _, fun m hm => ?_⟩
  obtain ⟨i, rfl⟩ := Nat.exists_eq_add_of_le ((Nat.le_add_right n _).trans hm)
  exact le_antisymm (hfall (Nat.le_of_add_le_add_left hm)) (Function.argmin_le (fun i => (f (n + i)).remaining) i)

/-- Settles O56: a block busy for ever would come to wait for bytes for ever, and the timeout step it is granted ends that. -/
theorem everyOperationEndsInAFairRun : Obligations.EveryOperationEndsInAFairRun := by
  intro f hf hinv n
  by_contra hnever
  have hbusy : ∀ m, n ≤ m → (f m).busy = true := fun m hm => by
    by_contra hidle
    exact hnever ⟨m, hm, by simpa using hidle⟩
  obtain ⟨k, hk, hsettled⟩ := hf.remaining_settles hinv hbusy
  obtain ⟨i, hi, hturn⟩ := hf.sequencer k fun m hm => hbusy m (hk.trans hm)
  have hwaits : (f i).receiving = true := by
    by_contra hwait
    have hlt := remaining_lt_of_step (hf.inv hinv i) (hbusy i (hk.trans hi)) hturn (by simpa using hwait) (hf.run i)
    rw [hsettled i hi, hsettled (i + 1) (hi.trans (Nat.le_succ i))] at hlt
    exact lt_irrefl _ hlt
  have hthree : ∀ m, i ≤ m → (f m).receiving = true := fun m hm => by
    rw [State.receiving_iff_remaining (hf.inv hinv i).inBounds, hsettled i hi] at hwaits
    rw [State.receiving_iff_remaining (hf.inv hinv m).inBounds, hsettled m (hi.trans hm), hwaits]
  obtain ⟨m, ms, hm, hnext, htime⟩ := hf.timeout i fun m hm => (f m).receiving_eq_true.mp (hthree m hm)
  have hidle := step_timeout (hthree m hm) hnext htime (hf.run m)
  cases hidle.symm.trans (hbusy (m + 1) (hk.trans (hi.trans (hm.trans (Nat.le_succ m)))))

end Sys2Proof.Machine
end
